-- ==== Sys2Proof/Word.lean ====
section
/-! DEFINITION. Word.lean: the widths the spec fixes for every instance of the unit
(`00_scope.md` section 5.3, `30_encoding.md` R51). The word width W is a parameter of the
instance (R6), so a word is `BitVec W` with W read from the configuration. -/

namespace Sys2Proof

/-- A control word: the 17 bits of port `cw` (R21, R51). -/
abbrev ControlWord := BitVec 17

/-- The operation code `cw[4:0]` (R51). -/
abbrev OpCode := BitVec 5

/-- One of the two small operands `i = cw[10:5]` and `j = cw[16:11]` (R51): an unsigned number 0 to 63 (R52). -/
abbrev SmallField := BitVec 6

end Sys2Proof
end

