-- ==== Sys2Proof/Syntax.lean ====
section
/-! DEFINITION. Syntax.lean: the 25 operations of operation set v1 (`30_encoding.md` R54), one constructor for each row
of the opcode table, with the control-word fields its format uses (R51, R52). The operands `a` and `b` are data on the
ports and no part of the encoding (R50). -/

namespace Sys2Proof

/-- An operation as a control word selects it (R54). -/
inductive Instr where
  /-- 0x00 ZERO, R120 -/
  | zero
  /-- 0x01 PATTERN, R81; the field is log2 of the pattern width, P = 2^log2P -/
  | pattern (log2P : SmallField)
  /-- 0x02 TOPCLR, R84 -/
  | topclr
  /-- 0x03 ISOLSB, R100 -/
  | isolsb
  /-- 0x04 CLRLSB, R101 -/
  | clrlsb
  /-- 0x05 MASKLOW, R103 -/
  | masklow
  /-- 0x06 ISOLSBITS, R105 -/
  | isolsbits
  /-- 0x07 CLRLSBITS, R106 -/
  | clrlsbits
  /-- 0x08 AT, R121 -/
  | atLane (lane : SmallField)
  /-- 0x09 CLEAR, R122 -/
  | clear (lane : SmallField)
  /-- 0x0A SET, R123 -/
  | set (lane bit : SmallField)
  /-- 0x0B TOP, R124 -/
  | top
  /-- 0x0C LSBIDX, R125 -/
  | lsbidx
  /-- 0x0D OR, R126 -/
  | or
  /-- 0x0E AND, R127 -/
  | and
  /-- 0x0F XOR, R128 -/
  | xor
  /-- 0x10 BROADCAST, R129 -/
  | broadcast
  /-- 0x11 EQ, R130 -/
  | eq
  /-- 0x12 POPCNT, R158 -/
  | popcnt (level : SmallField)
  /-- 0x13 GE, R170 -/
  | ge
  /-- 0x14 GEMSBOFF, R174 -/
  | gemsboff
  /-- 0x15 BNOT, R190 -/
  | bnot
  /-- 0x16 BCLEAR, R191 -/
  | bclear (lane : SmallField)
  /-- 0x17 BEST, R192 -/
  | best
  /-- 0x18 BANY, R193 -/
  | bany
  deriving DecidableEq, Repr

end Sys2Proof
end

