-- ==== Sys2Proof/WellFormed.lean ====
section
/-! DEFINITION. WellFormed.lean: the instructions some instance admits, whatever its (W, N): R55 condition 4 in full, and
of condition 3 the part every instance shares (log2 W is at most 6). What depends on the instance is `legality`
(Machine/Ops.lean). -/

namespace Sys2Proof

/-- The instruction is legal in at least one instance (R55): a PATTERN width of at most 64 bits, a POPCNT level of at
most 5; every other instruction has no bound on its fields (a lane index or bit position outside the instance's range is
a legal encoding whose transaction faults, R52). -/
def Instr.wf : Instr → Bool
  | .zero => true
  | .pattern log2P => decide (log2P.toNat ≤ 6)
  | .topclr => true
  | .isolsb => true
  | .clrlsb => true
  | .masklow => true
  | .isolsbits => true
  | .clrlsbits => true
  | .atLane _ => true
  | .clear _ => true
  | .set _ _ => true
  | .top => true
  | .lsbidx => true
  | .or => true
  | .and => true
  | .xor => true
  | .broadcast => true
  | .eq => true
  | .popcnt level => decide (level.toNat ≤ 5)
  | .ge => true
  | .gemsboff => true
  | .bnot => true
  | .bclear _ => true
  | .best => true
  | .bany => true

end Sys2Proof
end

