-- ==== Sys2Proof/Decode.lean ====
section
/-! DEFINITION. Decode.lean: the control word's fields, the decoder and the encoder (`30_encoding.md` R50 to R56).
The decoder is total on the 2^17 control words and rejects by name; the conditions of R55 that need the instance are
`legality`'s (Machine/Ops.lean). -/

namespace Sys2Proof

/-- Why a control word is no instruction of any instance (R55). -/
inductive Reject where
  /-- X1: `opc` is 0x19 to 0x1F -/
  | reservedOpcode
  /-- X2: a field the format does not use is not 0 -/
  | nonZeroUnusedField
  /-- X3: a PATTERN wider than every word -/
  | patternWidthUnsupported
  /-- X4: a POPCNT level above 5 -/
  | popLevelReserved
  deriving DecidableEq, Repr

/-- `opc = cw[4:0]` (R51). -/
def opcField (cw : ControlWord) : OpCode := cw.extractLsb' 0 5

/-- `i = cw[10:5]` (R51). -/
def iField (cw : ControlWord) : SmallField := cw.extractLsb' 5 6

/-- `j = cw[16:11]` (R51). -/
def jField (cw : ControlWord) : SmallField := cw.extractLsb' 11 6

/-- Format `Z`: uses `opc` only, so `i = 0` and `j = 0` (R51; R55 condition 2). -/
def formatZ (cw : ControlWord) (instr : Instr) : Except Reject Instr :=
  if iField cw = 0 ∧ jField cw = 0 then .ok instr else .error .nonZeroUnusedField

/-- Format `I`: uses `opc` and `i`, so `j = 0` (R51; R55 condition 2). -/
def formatI (cw : ControlWord) (instr : SmallField → Instr) : Except Reject Instr :=
  if jField cw = 0 then .ok (instr (iField cw)) else .error .nonZeroUnusedField

/-- Format `IJ`: uses every field (R51). -/
def formatIJ (cw : ControlWord) (instr : SmallField → SmallField → Instr) : Except Reject Instr :=
  .ok (instr (iField cw) (jField cw))

/-- The opcode map (R54): the operation a control word names, before its field values are looked at. -/
def decodeShape (cw : ControlWord) : Except Reject Instr :=
  match (opcField cw).toNat with
  | 0x00 => formatZ cw .zero
  | 0x01 => formatI cw .pattern
  | 0x02 => formatZ cw .topclr
  | 0x03 => formatZ cw .isolsb
  | 0x04 => formatZ cw .clrlsb
  | 0x05 => formatZ cw .masklow
  | 0x06 => formatZ cw .isolsbits
  | 0x07 => formatZ cw .clrlsbits
  | 0x08 => formatI cw .atLane
  | 0x09 => formatI cw .clear
  | 0x0A => formatIJ cw .set
  | 0x0B => formatZ cw .top
  | 0x0C => formatZ cw .lsbidx
  | 0x0D => formatZ cw .or
  | 0x0E => formatZ cw .and
  | 0x0F => formatZ cw .xor
  | 0x10 => formatZ cw .broadcast
  | 0x11 => formatZ cw .eq
  | 0x12 => formatI cw .popcnt
  | 0x13 => formatZ cw .ge
  | 0x14 => formatZ cw .gemsboff
  | 0x15 => formatZ cw .bnot
  | 0x16 => formatI cw .bclear
  | 0x17 => formatZ cw .best
  | 0x18 => formatZ cw .bany
  | _ => .error .reservedOpcode

/-- The field values no instance admits (R55 conditions 3 and 4). -/
def rejectField : Instr → Option Reject
  | .pattern log2P => if log2P.toNat ≤ 6 then none else some .patternWidthUnsupported
  | .popcnt level => if level.toNat ≤ 5 then none else some .popLevelReserved
  | .zero | .topclr | .isolsb | .clrlsb | .masklow | .isolsbits | .clrlsbits | .atLane _ | .clear _ | .set _ _
  | .top | .lsbidx | .or | .and | .xor | .broadcast | .eq | .ge | .gemsboff | .bnot | .bclear _ | .best | .bany => none

/-- Decode a control word (R50, R54, R55 conditions 1, 2, 4 and the instance-free part of 3). A word that breaks several
conditions is rejected for the first of R55's list (log entry 6). -/
def decode (cw : ControlWord) : Except Reject Instr :=
  match decodeShape cw with
  | .error e => .error e
  | .ok instr =>
    match rejectField instr with
    | some e => .error e
    | none => .ok instr

/-- The operation code of an instruction (R54). -/
def Instr.opcode : Instr → OpCode
  | .zero => 0x00
  | .pattern _ => 0x01
  | .topclr => 0x02
  | .isolsb => 0x03
  | .clrlsb => 0x04
  | .masklow => 0x05
  | .isolsbits => 0x06
  | .clrlsbits => 0x07
  | .atLane _ => 0x08
  | .clear _ => 0x09
  | .set _ _ => 0x0A
  | .top => 0x0B
  | .lsbidx => 0x0C
  | .or => 0x0D
  | .and => 0x0E
  | .xor => 0x0F
  | .broadcast => 0x10
  | .eq => 0x11
  | .popcnt _ => 0x12
  | .ge => 0x13
  | .gemsboff => 0x14
  | .bnot => 0x15
  | .bclear _ => 0x16
  | .best => 0x17
  | .bany => 0x18

/-- The field `i` of an instruction; 0 where its format has none (R51, R52). -/
def Instr.iValue : Instr → SmallField
  | .pattern i | .atLane i | .clear i | .set i _ | .popcnt i | .bclear i => i
  | .zero | .topclr | .isolsb | .clrlsb | .masklow | .isolsbits | .clrlsbits | .top | .lsbidx | .or | .and | .xor
  | .broadcast | .eq | .ge | .gemsboff | .bnot | .best | .bany => 0

/-- The field `j` of an instruction; 0 where its format has none (R51, R52). -/
def Instr.jValue : Instr → SmallField
  | .set _ j => j
  | .zero | .pattern _ | .topclr | .isolsb | .clrlsb | .masklow | .isolsbits | .clrlsbits | .atLane _ | .clear _ | .top
  | .lsbidx | .or | .and | .xor | .broadcast | .eq | .popcnt _ | .ge | .gemsboff | .bnot | .bclear _ | .best | .bany => 0

/-- The three fields of a control word side by side, `j` highest (R51): cw = opc + 32*i + 2048*j. -/
def packFields (opc : OpCode) (i j : SmallField) : ControlWord := j ++ (i ++ opc)

/-- The control word of an instruction (R51, R54). -/
def encode (instr : Instr) : ControlWord := packFields instr.opcode instr.iValue instr.jValue

/-- The instruction of a table row's word: bit 0 is `cw[0]`. The table gives a row its 17 bits in whole bytes; a word
with a bit above `cw[16]` is no control word (DESIGN CHOICE, safe, log entry 19). -/
def decodeTableWord (nbits w : Nat) : Option Instr :=
  let v := w % 2 ^ nbits
  if v < 2 ^ 17 then (decode (BitVec.ofNat 17 v)).toOption else none

end Sys2Proof
end

