-- ==== Sys2Proof/Config.lean ====
section
/-! DEFINITION. Config.lean: the elaboration parameters of one instance of the unit
(`00_scope.md` R6, R7, R8). An instance that breaks the parameters' rules does not exist
(R43, R212 reason X7): the structure carries the proofs that it keeps them, and
`Config.elaborate` (Machine/Elaborate.lean) refuses every other choice by name. -/

namespace Sys2Proof

/-- The choices of word width, lane width and switch level that name an instance (R6, R7, R8, R156). -/
abbrev ParametersAdmitted (W N popHwMinLevel : Nat) : Prop :=
  (W = 8 ∨ W = 16 ∨ W = 32 ∨ W = 64) ∧ (0 < N ∧ W % N = 0) ∧ (2 ≤ popHwMinLevel ∧ popHwMinLevel ≤ 6)

/-- One instance of the unit: its parameters, fixed while the instance exists (R6, R30). -/
structure Config where
  /-- word width in bits, `bitwidth(T)` (R7) -/
  W : Nat
  /-- lane width in bits (R6, R8) -/
  N : Nat
  /-- POP_HW_MIN_LEVEL: the lowest population-count level computed by the hardware-assisted path; OPEN (R8, R156) -/
  popHwMinLevel : Nat
  /-- LATENCY: cycles from request to result; OPEN, any fixed number, and no rule depends on it (R8, R235) -/
  latency : Nat
  /-- the parameters are admitted (R6, R7, R8) -/
  admitted : ParametersAdmitted W N popHwMinLevel
  deriving DecidableEq, Repr

/-- The lane count L = W / N (R6). -/
def Config.L (c : Config) : Nat := c.W / c.N

/-- The instance the reset state stands in: 64-bit words of 8-bit lanes, the instance of the spec's own
scenario (`95_test_vectors.md` E2), no hardware-assisted population count, combinational.
DESIGN CHOICE (log entry 1): the spec prefers no instance. -/
def Config.word64lane8 : Config :=
  { W := 64, N := 8, popHwMinLevel := 6, latency := 0, admitted := by decide }

end Sys2Proof
end

