-- ==== Sys2Proof/Machine/State.lean ====
section
/-! DEFINITION. Machine/State.lean: the state of the model. The unit itself holds none (`10_state.md` R20): what stands
here is the instance's parameters (R6, R8), the four ports (R21), and what the requester keeps between transactions (R20,
R63): the statements it has still to perform, the names it has bound, and the fault mark. Kinds are the program's, never
a signal (R22), so no port carries one. That the requester's side stands in State is log entry 3. -/

namespace Sys2Proof.Machine

/-- The kind of a value, a static property of the program (R22). -/
inductive Kind where
  /-- a Lane-Packed Word or raw backing integer: any W-bit value -/
  | word
  /-- a Boolean Lane Word: every bit that is not the MSB of a lane is 0 (R24) -/
  | bool
  deriving DecidableEq, Repr

/-- A name of the program notation (R60); which name stands behind a number is the requester's
(DESIGN CHOICE, safe, log entry 13). -/
abbrev Name := Nat

/-- An operand of a statement (R60). -/
inductive Source where
  /-- a name defined by an earlier statement, or a program input -/
  | name (n : Name)
  /-- a literal of at most W bits -/
  | lit (v : Nat)
  deriving DecidableEq, Repr

/-- A statement of a program (R60, R61). -/
inductive Stmt where
  /-- one transaction with a name for its result (R60); an operand the statement does not write is `none` -/
  | transact (dst : Name) (cw : ControlWord) (a b : Option Source)
  /-- `t = WRAP x`: no transaction, t names the W bits of x as a Word (R61, R132) -/
  | wrap (dst : Name) (x : Source)
  /-- `t = RAW x`: no transaction, t names the W bits of x as a Word (R61, R132) -/
  | raw (dst : Name) (x : Source)
  deriving DecidableEq, Repr

/-- A bound name with its kind and its value (R63). -/
structure Binding (W : Nat) where
  name : Name
  kind : Kind
  value : BitVec W
  deriving DecidableEq, Repr

/-- The precondition failures of R211. The source calls what follows undefined; R211 has a model record the reason and
stop the run. Each stop is SAFE (log entry 5): nothing is claimed of the value the hardware leaves on `r` (R210, U12). -/
inductive Fault where
  /-- F1, raised by AT, CLEAR, SET and BCLEAR when field i is not below L. Safe. -/
  | laneIndexOutOfRange (i : Nat)
  /-- F2, raised by SET when field j is not below N. Safe. -/
  | bitPositionOutOfRange (j : Nat)
  /-- F3, raised by TOP, LSBIDX and BEST when a = 0. Safe. -/
  | zeroOperand
  /-- F4, raised by BROADCAST when a is not below 2^N. Safe. -/
  | broadcastOperandTooWide (a : Nat)
  /-- F5, raised by GE when b is not below 2^N. Safe. -/
  | constantTooWide (b : Nat)
  /-- F6, raised by PATTERN when a is not below 2^P. Safe. -/
  | patternValueTooWide (a P : Nat)
  /-- F7, raised by GEMSBOFF when a lane's MSB is on in a or b. Safe. -/
  | msbNotOff (a b : Nat)
  deriving DecidableEq, Repr

/-- The reasons a request, a program or an instance is refused (R212), and the ill-formed programs of R63, which have no
code. Each is SAFE: a refused program has no end state. -/
inductive Refusal where
  /-- X1, raised by the decoder: `opc` is 0x19 to 0x1F. Safe. -/
  | reservedOpcode
  /-- X2, raised by the decoder: a field the format does not use is not 0. Safe. -/
  | nonZeroUnusedField
  /-- X3, raised by PATTERN: a width the word cannot be doubled to. Safe. -/
  | patternWidthUnsupported
  /-- X4, raised by POPCNT: a level above 5. Safe. -/
  | popLevelReserved
  /-- X5, raised by GE, GEMSBOFF, BNOT, BCLEAR, BEST and BANY in an instance with N = 1. Safe. -/
  | degenerateLane
  /-- X6, raised by the program check: a Word given to BNOT, BCLEAR, BEST or BANY. Safe. -/
  | kindMismatch
  /-- X7, raised when an instance is elaborated or two instances are wired. Safe. -/
  | badConfiguration
  /-- raised by the program check: a name used before it is defined (R63, R212). Safe. -/
  | undefinedName (n : Name)
  /-- raised by the program check: a name defined twice (R63, R212). Safe. -/
  | duplicateName (n : Name)
  /-- raised by the program check: an operand the operation reads is not written (R60). Safe. -/
  | missingOperand
  /-- raised by the program check: a literal of more than W bits (R60). Safe. -/
  | literalTooWide (v : Nat)
  /-- an instruction without a meaning; raised by no arm of this model. Safe. -/
  | notModelled (mnemonic : String)
  deriving DecidableEq, Repr

/-- The instance, its ports, and the requester's side of a run. -/
structure State where
  /-- the instance's parameters, fixed while it exists (R6, R8, R30) -/
  cfg : Config
  /-- port `cw`, in, 17 bits (R21) -/
  cw : ControlWord
  /-- port `a`, in, W bits (R21) -/
  a : BitVec cfg.W
  /-- port `b`, in, W bits (R21) -/
  b : BitVec cfg.W
  /-- port `r`, out, W bits: what the last transaction answered (R21) -/
  r : BitVec cfg.W
  /-- the requester's statements still to be performed, next first (R63) -/
  pending : List Stmt
  /-- the names bound so far, latest first (R63) -/
  bound : List (Binding cfg.W)
  /-- the requester's fault mark: the fault that ended its run, never cleared within the run (R20, R211) -/
  recorded : Option Fault
  deriving DecidableEq, Repr

/-- After power-up: every line at 0, so the request is ZERO and `r = 0` (R32); no program, no name, no fault mark.
The instance is `Config.word64lane8` (log entry 1); the lines' zeros are log entry 2. -/
def State.reset : State :=
  { cfg := Config.word64lane8, cw := 0, a := 0, b := 0, r := 0, pending := [], bound := [], recorded := none }

end Sys2Proof.Machine
end

