-- ==== Sys2Proof/Machine/Ops.lean ====
section
/-! DEFINITION. Machine/Ops.lean: the shared operations. First the primitives on one word that `00_scope.md` section 5.2
lists; then how a transaction ends: an answer on `r`, a fault of R211, a refusal of R212. The unit has no memory (R40), no
register file (R28) and takes no exception (R210): a fault ends the run, and nothing is saved, entered or returned from. -/

namespace Sys2Proof.Machine

/-- How one transaction, or one step, ends. -/
abbrev Ending := Host.Outcome State Fault Refusal

/-! ### Primitives on one word -/

/-- `LOWMASK(n) = 2^n - 1` as a W-bit word: the number, not `(1 << n) - 1` computed in W bits (R103). -/
def lowMask (W n : Nat) : BitVec W := BitVec.ofNat W (2 ^ n - 1)

/-- `Lane(v, k) = (v >> (k*N)) & (2^N - 1)`, zero-extended to W bits (R23). -/
def lane {W : Nat} (N : Nat) (v : BitVec W) (k : Nat) : BitVec W := (v >>> (k * N)) &&& lowMask W N

/-- `LaneMask(k)`: all bits of lane k (R23). -/
def laneMask (W N k : Nat) : BitVec W := lowMask W N <<< (k * N)

/-- The word with bit n alone. -/
def oneBit (W n : Nat) : BitVec W := BitVec.twoPow W n

/-- The pattern widths of a W-bit word: P is a power of two (R80), and repeated doubling lands exactly on W, after
log2(W/P) rounds (R80, R82). -/
abbrev PatternWidth (W P : Nat) : Prop := P = 2 ^ Nat.log2 P ∧ W = P * 2 ^ Nat.log2 (W / P)

/-- The doubling loop of R80, `fuel` times at most; entered by `pat?` alone. -/
def patLoop {W : Nat} : Nat → BitVec W → Nat → BitVec W
  | 0, v, _ => v
  | fuel + 1, v, cur => if cur < W then patLoop fuel (v ||| (v <<< cur)) (2 * cur) else v

/-- `PAT(p, P)`: the P-bit pattern p doubled until it fills the word; not defined for any other width, nor for a value of
more than P bits (R80, R82). W rounds are always enough. -/
def pat? {W : Nat} (p : BitVec W) (P : Nat) : Option (BitVec W) :=
  if PatternWidth W P ∧ p.toNat < 2 ^ P then some (patLoop W p P) else none

theorem pat?_isSome {W P : Nat} {p : BitVec W} (hP : PatternWidth W P) (hp : p.toNat < 2 ^ P) : (pat? p P).isSome := by
  simp only [pat?, if_pos (And.intro hP hp), Option.isSome_some]

theorem word_powerOfTwo (c : Config) : ∃ k, c.W = 2 ^ k := by
  rcases c.admitted.1 with h | h | h | h <;> rw [h]
  exacts [⟨3, rfl⟩, ⟨4, rfl⟩, ⟨5, rfl⟩, ⟨6, rfl⟩]

/-- Every power of two up to W is a supported pattern width of an instance (R82). -/
theorem powerOfTwo_supported (c : Config) {i : Nat} (h : 2 ^ i ≤ c.W) : PatternWidth c.W (2 ^ i) := by
  obtain ⟨k, hW⟩ := word_powerOfTwo c
  have hi : i ≤ k := (Nat.pow_le_pow_iff_right (by decide)).mp (hW ▸ h)
  refine ⟨by rw [Nat.log2_two_pow], ?_⟩
  rw [hW, Nat.pow_div hi (by decide), Nat.log2_two_pow, ← pow_add, Nat.add_sub_cancel' hi]

/-- The lane width of every instance is a supported pattern width (R82). -/
theorem laneWidth_supported (c : Config) : PatternWidth c.W c.N := by
  obtain ⟨k, hW⟩ := word_powerOfTwo c
  obtain ⟨i, hi, hN⟩ := (Nat.dvd_prime_pow Nat.prime_two).mp (hW ▸ Nat.dvd_of_mod_eq_zero c.admitted.2.1.2)
  exact hN ▸ powerOfTwo_supported c (hW ▸ Nat.pow_le_pow_right (by decide) hi)

theorem ones_defined (c : Config) : (pat? (1 : BitVec c.W) c.N).isSome :=
  pat?_isSome (laneWidth_supported c) (lt_of_le_of_lt (Nat.mod_le 1 _)
    (Nat.one_lt_two_pow (by have := c.admitted.2.1.1; omega)))

theorem msbs_defined (c : Config) : (pat? (BitVec.ofNat c.W (2 ^ (c.N - 1))) c.N).isSome :=
  pat?_isSome (laneWidth_supported c) (lt_of_le_of_lt (Nat.mod_le _ _)
    (Nat.pow_lt_pow_right (by decide) (by have := c.admitted.2.1.1; omega)))

/-- `ONES = PAT(1, N)`, a constant of the instance: a 1 in the lowest bit of every lane (R83). -/
def ones (c : Config) : BitVec c.W := (pat? 1 c.N).get (ones_defined c)

/-- `MSBS = PAT(2^(N-1), N)`, a constant of the instance: a 1 in the highest bit of every lane (R83). -/
def msbs (c : Config) : BitVec c.W := (pat? (BitVec.ofNat c.W (2 ^ (c.N - 1))) c.N).get (msbs_defined c)

/-- `ctz(v)`: the index of the lowest 1 bit; not defined at 0 (`00_scope.md` section 5.1; log entry 17). -/
def ctz? {W : Nat} (v : BitVec W) : Option Nat := (List.range W).find? fun n => v.getLsbD n

/-- `msb(v)`: the index of the highest 1 bit; not defined at 0 (`00_scope.md` section 5.1). -/
def msb? {W : Nat} (v : BitVec W) : Option Nat := (List.range W).reverse.find? fun n => v.getLsbD n

/-- `LsbLane(v) = ctz(v) div N`: the lane that holds the lowest set bit; not defined at 0 (R104). -/
def lsbLane? {W : Nat} (N : Nat) (v : BitVec W) : Option Nat := (ctz? v).map (· / N)

/-- `msb(v) div N`: the lane that holds the highest set bit; not defined at 0 (R124). -/
def topLane? {W : Nat} (N : Nat) (v : BitVec W) : Option Nat := (msb? v).map (· / N)

/-- `popc(x)`: how many bits are 1 (`00_scope.md` section 5.1). -/
def popc {w : Nat} (x : BitVec w) : Nat := (List.range w).countP fun n => x.getLsbD n

/-- The sum of `f 0`, ..., `f (n-1)`, the form of the sums of R150 and R170. -/
def sumWords {w : Nat} (f : Nat → BitVec w) : Nat → BitVec w
  | 0 => 0
  | n + 1 => sumWords f n + f n

/-- The OR of `f 0`, ..., `f (n-1)`, the loop of R155. -/
def orWords {w : Nat} (f : Nat → BitVec w) : Nat → BitVec w
  | 0 => 0
  | n + 1 => orWords f n ||| f n

/-! ### How a transaction ends -/

/-- The state whose result port carries v and which is otherwise s: an operation writes nothing but `r` (R29). -/
def State.setR (s : State) (v : BitVec s.cfg.W) : State := { s with r := v }

/-- `r <- v`. -/
def deliver (s : State) (v : BitVec s.cfg.W) : Ending := .next (s.setR v)

/-- `require c else raise f` (`00_scope.md` section 5.3): the fault f unless c holds (R211). -/
def require (c : Prop) [Decidable c] (f : Fault) (k : Ending) : Ending := if c then k else .fault f

/-- `require` for a value that a primitive may not have: the fault f where it has none (R211). -/
def requireSome {α : Type} (v : Option α) (f : Fault) (k : α → Ending) : Ending :=
  match v with
  | none => .fault f
  | some x => k x

/-- `require i < L else raise LaneIndexOutOfRange(i)`, shared by every operation that takes a lane index (R122, R211). -/
def requireLane (i : SmallField) (s : State) (k : Ending) : Ending :=
  require (i.toNat < s.cfg.L) (.laneIndexOutOfRange i.toNat) k

/-- The refusal a rejected control word meets (R212). -/
def Refusal.ofReject : Reject → Refusal
  | .reservedOpcode => .reservedOpcode
  | .nonZeroUnusedField => .nonZeroUnusedField
  | .patternWidthUnsupported => .patternWidthUnsupported
  | .popLevelReserved => .popLevelReserved

/-- Why an instruction is not legal in the instance c (R55 conditions 3, 4, 5); `none` where it is legal. A width 2^i is
at most W exactly when i is at most log2 W. -/
def legality (c : Config) : Instr → Option Refusal
  | .pattern log2P => if 2 ^ log2P.toNat ≤ c.W then none else some .patternWidthUnsupported
  | .popcnt level => if level.toNat ≤ 5 then none else some .popLevelReserved
  | .ge | .gemsboff | .bnot | .bclear _ | .best | .bany => if 1 < c.N then none else some .degenerateLane
  | .zero | .topclr | .isolsb | .clrlsb | .masklow | .isolsbits | .clrlsbits | .atLane _ | .clear _ | .set _ _
  | .top | .lsbidx | .or | .and | .xor | .broadcast | .eq => none

/-- Refuse the instruction where the instance does not admit it, before any operand is looked at (R213). -/
def whenLegal (instr : Instr) (s : State) (k : State → Ending) : Ending :=
  match legality s.cfg instr with
  | some x => .refused x
  | none => k s

/-- The instruction a request names, or why the request is not legal for the instance (R55). -/
def requestInstr (c : Config) (cw : ControlWord) : Except Refusal Instr :=
  match decode cw with
  | .error e => .error (Refusal.ofReject e)
  | .ok instr =>
    match legality c instr with
    | some x => .error x
    | none => .ok instr

/-- Go on from a next state; a fault or a refusal ends it. -/
def andThen (e : Ending) (k : State → Ending) : Ending :=
  match e with
  | .next t => k t
  | .fault f => .fault f
  | .refused x => .refused x

end Sys2Proof.Machine
end

