-- ==== Sys2Proof/Machine/Flags.lean ====
section
/-! DEFINITION. Machine/Flags.lean: the unit has no status flags (`10_state.md` R29). A truth value is a result: EQ and
BANY return it on `r` as 0 or 1 (R130, R193), and the truth bits of a Boolean Lane Word are data (R24). -/

namespace Sys2Proof.Machine

/-- A truth value as a W-bit result, 0 or 1 (R29). -/
def flagWord (W : Nat) (c : Bool) : BitVec W := if c then 1 else 0

/-- Lane k of a Boolean Lane Word is true: its most significant bit is 1 (R24). -/
def laneTrue {W : Nat} (N : Nat) (x : BitVec W) (k : Nat) : Bool := x.getLsbD (k * N + N - 1)

/-- The invariant of kind Bool, `x & ~MSBS = 0` (R24). -/
def isBoolWord (c : Config) (x : BitVec c.W) : Bool := x &&& ~~~(msbs c) == 0

end Sys2Proof.Machine
end

