-- ==== Sys2Proof/Machine/Operands.lean ====
section
/-! DEFINITION. Machine/Operands.lean: what each operation reads from the ports and with which kind (`30_encoding.md` R52,
R54, R62), and how a statement's operands find their values and kinds (R60, R62, R63). -/

namespace Sys2Proof.Machine

/-- The kind column "a" of R54; `none` where the operation ignores `a`. -/
def aKind : Instr → Option Kind
  | .zero | .topclr | .masklow => none
  | .bnot | .bclear _ | .best | .bany => some .bool
  | .pattern _ | .isolsb | .clrlsb | .isolsbits | .clrlsbits | .atLane _ | .clear _ | .set _ _ | .top | .lsbidx
  | .or | .and | .xor | .broadcast | .eq | .popcnt _ | .ge | .gemsboff => some .word

/-- The kind column "b" of R54; `none` where the operation ignores `b`. -/
def bKind : Instr → Option Kind
  | .or | .and | .xor | .eq | .ge | .gemsboff => some .word
  | .zero | .pattern _ | .topclr | .isolsb | .clrlsb | .masklow | .isolsbits | .clrlsbits | .atLane _ | .clear _
  | .set _ _ | .top | .lsbidx | .broadcast | .popcnt _ | .bnot | .bclear _ | .best | .bany => none

/-- The kind of the result, column "result" of R54 (R22, R25): the four producers of a Boolean Lane Word, and no other. -/
def resultKind : Instr → Kind
  | .ge | .gemsboff | .bnot | .bclear _ => .bool
  | .zero | .pattern _ | .topclr | .isolsb | .clrlsb | .masklow | .isolsbits | .clrlsbits | .atLane _ | .clear _
  | .set _ _ | .top | .lsbidx | .or | .and | .xor | .broadcast | .eq | .popcnt _ | .best | .bany => .word

/-- The name a statement defines (R60). -/
def Stmt.dst : Stmt → Name
  | .transact dst _ _ _ => dst
  | .wrap dst _ => dst
  | .raw dst _ => dst

/-- The names in scope with their kinds. -/
abbrev Scope := List (Name × Kind)

/-- The kind of a name in scope. -/
def Scope.kindOf (scope : Scope) (n : Name) : Option Kind := (scope.find? fun e => e.1 == n).map (·.2)

/-- A value of the kind `given` may stand where `want` is asked for: a Bool is accepted for a Word, a Word is not accepted
for a Bool (R25, R62); an ignored port accepts any. -/
def kindAccepted (want : Option Kind) (given : Kind) : Bool :=
  match want, given with
  | some .bool, .word => false
  | some .bool, .bool => true
  | some .word, _ => true
  | none, _ => true

/-- Why an operand of a statement will not do (R60, R62, R63); `none` where it will. -/
def checkOperand (c : Config) (scope : Scope) (want : Option Kind) (x : Option Source) : Option Refusal :=
  match x with
  | none => if want.isSome then some .missingOperand else none
  | some (.name n) =>
    match scope.kindOf n with
    | none => some (.undefinedName n)
    | some k => if kindAccepted want k then none else some .kindMismatch
  | some (.lit v) =>
    if v < 2 ^ c.W then (if kindAccepted want .word then none else some .kindMismatch) else some (.literalTooWide v)

/-- The binding of a name (R63). -/
def State.lookup (s : State) (n : Name) : Option (Binding s.cfg.W) := s.bound.find? fun e => e.name == n

/-- What a name is bound to, as plain numbers: its kind and its value. -/
def State.valueOf (s : State) (n : Name) : Option (Kind × Nat) := (s.lookup n).map fun e => (e.kind, e.value.toNat)

/-- The value of an operand (R60). -/
def State.sourceValue (s : State) : Source → Except Refusal (BitVec s.cfg.W)
  | .name n =>
    match s.lookup n with
    | none => .error (.undefinedName n)
    | some e => .ok e.value
  | .lit v => if v < 2 ^ s.cfg.W then .ok (BitVec.ofNat s.cfg.W v) else .error (.literalTooWide v)

/-- The value a statement drives on an operand line that stands at `held`: the operand's where it writes one, else the
line as it stands (log entry 7). -/
def State.lineValue (s : State) (held : BitVec s.cfg.W) : Option Source → Except Refusal (BitVec s.cfg.W)
  | none => .ok held
  | some x => s.sourceValue x

end Sys2Proof.Machine
end

