-- ==== Sys2Proof/Machine/BitIsolation.lean ====
section
/-! DEFINITION. Machine/BitIsolation.lean: the Bit-Isolation Primitives (`41_bitisolation.md`): ISOLSB, CLRLSB, MASKLOW,
ISOLSBITS, CLRLSBITS. None faults. -/

namespace Sys2Proof.Machine

/-- The word with its lowest set bit cleared, `v & (v - 1)` with `v - 1` modulo 2^W; 0 stays 0 (R101). -/
def clearLowest {W : Nat} (v : BitVec W) : BitVec W := v &&& (v - 1)

/-- The word with only its lowest set bit kept; 0 at 0 (R100). -/
def isolateLowest {W : Nat} (v : BitVec W) : BitVec W := v &&& ~~~(clearLowest v)

/-- The word with only the lane of its lowest set bit kept; 0 at 0 (R105, decision D15). -/
def isolateLowestLane {W : Nat} (N : Nat) (v : BitVec W) : BitVec W :=
  match lsbLane? N v with
  | none => 0
  | some k => v &&& laneMask W N k

/-- The word with the lane of its lowest set bit cleared; 0 at 0 (R106, decision D15). -/
def clearLowestLane {W : Nat} (N : Nat) (v : BitVec W) : BitVec W :=
  match lsbLane? N v with
  | none => 0
  | some k => v &&& ~~~(laneMask W N k)

/-- ISOLSB (R100). -/
def execIsolsb (s : State) : Ending := deliver s (isolateLowest s.a)

/-- CLRLSB (R101). -/
def execClrlsb (s : State) : Ending := deliver s (clearLowest s.a)

/-- MASKLOW (R103): the all-ones mask of the instance's lane width at bit 0. -/
def execMasklow (s : State) : Ending := deliver s (lowMask s.cfg.W s.cfg.N)

/-- ISOLSBITS (R105). -/
def execIsolsbits (s : State) : Ending := deliver s (isolateLowestLane s.cfg.N s.a)

/-- CLRLSBITS (R106). -/
def execClrlsbits (s : State) : Ending := deliver s (clearLowestLane s.cfg.N s.a)

end Sys2Proof.Machine
end

