-- ==== Sys2Proof/Machine/BooleanLane.lean ====
section
/-! DEFINITION. Machine/BooleanLane.lean: the Boolean Lane Word (`45_boolean_lane.md`): BNOT, BCLEAR, BEST, BANY. The unit
sees W bits and no kind (R22): that `a` is a Bool is checked of the program, before it runs (R62, Machine/Program.lean).
DEDUCED, unsafe (log entry 9): on lines that no program drives, these four answer by their rules' expressions whatever the
bits are. -/

namespace Sys2Proof.Machine

/-- BNOT (R190): every lane's truth bit flipped. -/
def execBnot (s : State) : Ending := whenLegal .bnot s fun s => deliver s (s.a ^^^ msbs s.cfg)

/-- BCLEAR (R191): the truth bit of lane i cleared. -/
def execBclear (i : SmallField) (s : State) : Ending :=
  whenLegal (.bclear i) s fun s =>
    requireLane i s (deliver s (s.a &&& ~~~(oneBit s.cfg.W (i.toNat * s.cfg.N + s.cfg.N - 1))))

/-- BEST (R192): the highest true lane, as TOP finds it; F3 where no lane is true. -/
def execBest (s : State) : Ending :=
  whenLegal .best s fun s =>
    requireSome (topLane? s.cfg.N s.a) .zeroOperand fun k => deliver s (BitVec.ofNat s.cfg.W k)

/-- BANY (R193): 1 where any lane is true, else 0. -/
def execBany (s : State) : Ending := whenLegal .bany s fun s => deliver s (flagWord s.cfg.W (s.a != 0))

end Sys2Proof.Machine
end

