-- ==== Sys2Proof/Machine/Compare.lean ====
section
/-! DEFINITION. Machine/Compare.lean: the Parallel Comparison (`44_compare.md`): GE, GEMSBOFF, and beside them the source's
literal algorithm (R172), which is not the unit's GE, and the borrow-free datapath (R173), which is. -/

namespace Sys2Proof.Machine

/-- The contract of GE (R170): the MSB of lane k where lane k of a is at least K, and nothing else. -/
def geWord {W : Nat} (N : Nat) (a : BitVec W) (K : Nat) : BitVec W :=
  sumWords (fun k => if K ≤ (lane N a k).toNat then oneBit W (k * N + (N - 1)) else 0) (W / N)

/-- `GuardSub(a, k) = ((a | MSBS) - k) & MSBS`, the subtraction modulo 2^W (R172). -/
def guardSub (c : Config) (a k : BitVec c.W) : BitVec c.W := ((a ||| msbs c) - k) &&& msbs c

/-- `GeLiteral(a, K) = GuardSub(a, K * ONES)`: the source's algorithm text; NOT the unit's GE (R172, `90_conflicts.md` C1). -/
def geLiteral (c : Config) (a : BitVec c.W) (K : Nat) : BitVec c.W := guardSub c a (BitVec.ofNat c.W K * ones c)

/-- The borrow-free datapath over the whole range (R173). -/
def geDatapath (c : Config) (a : BitVec c.W) (K : Nat) : BitVec c.W :=
  let k := BitVec.ofNat c.W K * ones c
  let lo := ~~~(msbs c)
  let t := ((a &&& lo) ||| msbs c) - (k &&& lo)
  ((a &&& ~~~k) ||| (~~~(a ^^^ k) &&& t)) &&& msbs c

/-- GE (R170, R171): X5 where N = 1, F5 where the constant on `b` is no lane value. -/
def execGe (s : State) : Ending :=
  whenLegal .ge s fun s =>
    require (s.b.toNat < 2 ^ s.cfg.N) (.constantTooWide s.b.toNat) (deliver s (geWord s.cfg.N s.a s.b.toNat))

/-- GEMSBOFF (R174): X5 where N = 1, F7 where a lane's MSB is on in either operand. -/
def execGemsboff (s : State) : Ending :=
  whenLegal .gemsboff s fun s =>
    require (s.a &&& msbs s.cfg = 0 ∧ s.b &&& msbs s.cfg = 0) (.msbNotOff s.a.toNat s.b.toNat)
      (deliver s (guardSub s.cfg s.a s.b))

end Sys2Proof.Machine
end

