-- ==== Sys2Proof/Machine/LaneWord.lean ====
section
/-! DEFINITION. Machine/LaneWord.lean: the Lane-Packed Word (`42_lane_word.md`): ZERO, AT, CLEAR, SET, TOP, LSBIDX, OR, AND,
XOR, BROADCAST, EQ. -/

namespace Sys2Proof.Machine

/-- ZERO (R120): the default-constructed Lane-Packed Word. -/
def execZero (s : State) : Ending := deliver s 0

/-- AT (R121): the value of lane i, zero-extended. -/
def execAt (i : SmallField) (s : State) : Ending := requireLane i s (deliver s (lane s.cfg.N s.a i.toNat))

/-- CLEAR (R122): a copy with lane i zeroed. -/
def execClear (i : SmallField) (s : State) : Ending :=
  requireLane i s (deliver s (s.a &&& ~~~(laneMask s.cfg.W s.cfg.N i.toNat)))

/-- SET (R123): a copy with bit j of lane i set; the lane index is checked first (R213). -/
def execSet (i j : SmallField) (s : State) : Ending :=
  requireLane i s
    (require (j.toNat < s.cfg.N) (.bitPositionOutOfRange j.toNat)
      (deliver s (s.a ||| oneBit s.cfg.W (i.toNat * s.cfg.N + j.toNat))))

/-- TOP (R124): the lane of the highest set bit; F3 at 0. -/
def execTop (s : State) : Ending :=
  requireSome (topLane? s.cfg.N s.a) .zeroOperand fun k => deliver s (BitVec.ofNat s.cfg.W k)

/-- LSBIDX (R125): the lane of the lowest set bit; F3 at 0. -/
def execLsbidx (s : State) : Ending :=
  requireSome (lsbLane? s.cfg.N s.a) .zeroOperand fun k => deliver s (BitVec.ofNat s.cfg.W k)

/-- OR (R126). -/
def execOr (s : State) : Ending := deliver s (s.a ||| s.b)

/-- AND (R127). -/
def execAnd (s : State) : Ending := deliver s (s.a &&& s.b)

/-- XOR (R128). -/
def execXor (s : State) : Ending := deliver s (s.a ^^^ s.b)

/-- BROADCAST (R129): lane 0 in every lane, by the product with ONES; F4 where a lane above lane 0 is not 0. -/
def execBroadcast (s : State) : Ending :=
  require (s.a.toNat < 2 ^ s.cfg.N) (.broadcastOperandTooWide s.a.toNat)
    (deliver s (lane s.cfg.N s.a 0 * ones s.cfg))

/-- EQ (R130): all W bits compared, 0 or 1. -/
def execEq (s : State) : Ending := deliver s (flagWord s.cfg.W (s.a == s.b))

end Sys2Proof.Machine
end

