-- ==== Sys2Proof/Machine/Pattern.lean ====
section
/-! DEFINITION. Machine/Pattern.lean: the Repeating-Pattern Generator (`40_pattern.md`): PATTERN and TOPCLR. -/

namespace Sys2Proof.Machine

/-- PATTERN (R81): `PAT(a, P)` with P = 2^i; X3 where the word is narrower than P, and, PAT being defined for every other
width P (R82), F6 exactly where a is not below 2^P. -/
def execPattern (log2P : SmallField) (s : State) : Ending :=
  whenLegal (.pattern log2P) s fun s =>
    requireSome (pat? s.a (2 ^ log2P.toNat)) (.patternValueTooWide s.a.toNat (2 ^ log2P.toNat)) (deliver s)

/-- TOPCLR (R84): `LOWMASK(W - (W mod N))`. -/
def execTopclr (s : State) : Ending := deliver s (lowMask s.cfg.W (s.cfg.W - s.cfg.W % s.cfg.N))

end Sys2Proof.Machine
end

