-- ==== Sys2Proof/Machine/PopCount.lean ====
section
/-! DEFINITION. Machine/PopCount.lean: the Parallel Population Count (`43_popcount.md`): the value, the two structures that
compute it, the selection between them, and POPCNT. The datapath is 64 bits wide in every instance. -/

namespace Sys2Proof.Machine

/-- The six levels (R150, R151). -/
abbrev PopLevel := Fin 6

/-- The level field i names, legal for 0 <= i <= 5 (R52). -/
def popLevel? (level : SmallField) : Option PopLevel := if h : level.toNat < 6 then some ⟨level.toNat, h⟩ else none

/-- The group width at a level, G = 2^(lvl+1) (R150). -/
def groupWidth (lvl : Nat) : Nat := 2 ^ (lvl + 1)

/-- Group g of a 64-bit word: bits g*G+G-1 down to g*G (R150). -/
def group (lvl : Nat) (v : BitVec 64) (g : Nat) : BitVec (groupWidth lvl) :=
  v.extractLsb' (g * groupWidth lvl) (groupWidth lvl)

/-- `PopRef(lvl, v)`: in every group, the count of the group's 1 bits (R150). -/
def popRef (lvl : Nat) (v : BitVec 64) : BitVec 64 :=
  sumWords (fun g => BitVec.ofNat 64 (popc (group lvl v g) * 2 ^ (g * groupWidth lvl))) (64 / groupWidth lvl)

theorem popMask_defined (k : PopLevel) : (pat? (BitVec.ofNat 64 (2 ^ 2 ^ k.val - 1)) (2 ^ (k.val + 1))).isSome := by
  have hle : 2 ^ (k.val + 1) ≤ Config.word64lane8.W := by
    show 2 ^ (k.val + 1) ≤ 2 ^ 6
    exact Nat.pow_le_pow_right (by decide) (by omega)
  refine pat?_isSome (powerOfTwo_supported Config.word64lane8 hle) (lt_of_le_of_lt (Nat.mod_le _ _) ?_)
  · have : 2 ^ 2 ^ k.val ≤ 2 ^ 2 ^ (k.val + 1) :=
      Nat.pow_le_pow_right (by decide) (Nat.pow_le_pow_right (by decide) (by omega))
    have : 0 < 2 ^ 2 ^ k.val := by positivity
    omega

/-- `PM(k)`: in every group of 2^(k+1) bits, ones in the low 2^k bits (R154). -/
def popMask (k : PopLevel) : BitVec 64 :=
  (pat? (BitVec.ofNat 64 (2 ^ 2 ^ k.val - 1)) (2 ^ (k.val + 1))).get (popMask_defined k)

/-- The logic tree up to level k (R152 for level 0, R153 above). -/
def popTree : (k : Nat) → k < 6 → BitVec 64 → BitVec 64
  | 0, h, v => v - ((v >>> 1) &&& popMask ⟨0, h⟩)
  | k + 1, h, v =>
    let t := popTree k (by omega) v
    (t &&& popMask ⟨k + 1, h⟩) + ((t >>> 2 ^ (k + 1)) &&& popMask ⟨k + 1, h⟩)

/-- `PopLogic(lvl, v)`: the logic tree (R152, R153). -/
def popLogic (lvl : PopLevel) (v : BitVec 64) : BitVec 64 := popTree lvl.val lvl.isLt v

/-- `HWPOP_G`: the G-bit population-count cell (R155). -/
def hwPop {G : Nat} (chunk : BitVec G) : Nat := popc chunk

/-- `PopHW(lvl, v)`: the hardware-assisted path, for levels 2 to 5 (R155). -/
def popHW (lvl : Nat) (v : BitVec 64) : BitVec 64 :=
  orWords (fun g => BitVec.ofNat 64 (hwPop (group lvl v g)) <<< (g * groupWidth lvl)) (64 / groupWidth lvl)

/-- `Pop(lvl, v)` in an instance whose POP_HW_MIN_LEVEL is H (R156). -/
def pop (H : Nat) (lvl : PopLevel) (v : BitVec 64) : BitVec 64 := if H ≤ lvl.val then popHW lvl v else popLogic lvl v

/-- POPCNT (R158, R159): the operand zero-extended to 64 bits, counted, truncated to W bits; X4 above level 5. -/
def execPopcnt (level : SmallField) (s : State) : Ending :=
  match popLevel? level with
  | none => .refused .popLevelReserved
  | some lvl => deliver s ((pop s.cfg.popHwMinLevel lvl (s.a.setWidth 64)).setWidth s.cfg.W)

end Sys2Proof.Machine
end

