-- ==== Sys2Proof/Machine/Dispatch.lean ====
section
/-! DEFINITION. Machine/Dispatch.lean: one arm for each operation of the opcode map (`30_encoding.md` R54). -/

namespace Sys2Proof.Machine

def exec (i : Instr) (s : State) : Host.Outcome State Fault Refusal :=
  match i with
  | .zero => Sys2Proof.Machine.execZero s
  | .pattern log2P => Sys2Proof.Machine.execPattern log2P s
  | .topclr => Sys2Proof.Machine.execTopclr s
  | .isolsb => Sys2Proof.Machine.execIsolsb s
  | .clrlsb => Sys2Proof.Machine.execClrlsb s
  | .masklow => Sys2Proof.Machine.execMasklow s
  | .isolsbits => Sys2Proof.Machine.execIsolsbits s
  | .clrlsbits => Sys2Proof.Machine.execClrlsbits s
  | .atLane lane => Sys2Proof.Machine.execAt lane s
  | .clear lane => Sys2Proof.Machine.execClear lane s
  | .set lane bit => Sys2Proof.Machine.execSet lane bit s
  | .top => Sys2Proof.Machine.execTop s
  | .lsbidx => Sys2Proof.Machine.execLsbidx s
  | .or => Sys2Proof.Machine.execOr s
  | .and => Sys2Proof.Machine.execAnd s
  | .xor => Sys2Proof.Machine.execXor s
  | .broadcast => Sys2Proof.Machine.execBroadcast s
  | .eq => Sys2Proof.Machine.execEq s
  | .popcnt level => Sys2Proof.Machine.execPopcnt level s
  | .ge => Sys2Proof.Machine.execGe s
  | .gemsboff => Sys2Proof.Machine.execGemsboff s
  | .bnot => Sys2Proof.Machine.execBnot s
  | .bclear lane => Sys2Proof.Machine.execBclear lane s
  | .best => Sys2Proof.Machine.execBest s
  | .bany => Sys2Proof.Machine.execBany s

end Sys2Proof.Machine
end

