-- ==== Sys2Proof/Machine/Request.lean ====
section
/-! DEFINITION. Machine/Request.lean: one transaction: the requester presents `cw`, `a`, `b` and the unit answers `r`
(`10_state.md` R21, `30_encoding.md` R50). -/

namespace Sys2Proof.Machine

/-- Perform the operation a control word selects on the operand lines as they stand; a word that is no instruction is
refused by its reason and given no meaning (R55, R56, R212). -/
def transact (cw : ControlWord) (s : State) : Ending :=
  match decode cw with
  | .error e => .refused (Refusal.ofReject e)
  | .ok instr => exec instr s

/-- The transaction the lines stand at (R21). Repeating it changes nothing (R44). -/
def issue (s : State) : Ending := transact s.cw s

end Sys2Proof.Machine
end

