-- ==== Sys2Proof/Machine/Program.lean ====
section
/-! DEFINITION. Machine/Program.lean: the requester's programs (`30_encoding.md` R60 to R63): the check a program passes
before any of it runs, and what performing one statement does. The names, their values and kinds, and the statements still
to be performed are the requester's (R20). -/

namespace Sys2Proof.Machine

/-- The names a state has bound, with their kinds. -/
def State.scope (s : State) : Scope := s.bound.map fun e => (e.name, e.kind)

/-- A name is defined once (R63). -/
def defineFresh (scope : Scope) (dst : Name) (k : Kind) : Except Refusal (Name × Kind) :=
  if (scope.kindOf dst).isSome then .error (.duplicateName dst) else .ok (dst, k)

/-- Check one statement and say what it defines: a legal control word (R55), operands that are written, defined, of at most
W bits and well-kinded (R60, R62), and a name not defined before (R63). `WRAP` and `RAW` take a value of either kind (R61).
DESIGN CHOICE, safe (log entry 10): the order of the checks, and the reasons that have no code. -/
def checkStmt (c : Config) (scope : Scope) : Stmt → Except Refusal (Name × Kind)
  | .transact dst cw x y =>
    match requestInstr c cw with
    | .error r => .error r
    | .ok instr =>
      match checkOperand c scope (aKind instr) x with
      | some r => .error r
      | none =>
        match checkOperand c scope (bKind instr) y with
        | some r => .error r
        | none => defineFresh scope dst (resultKind instr)
  | .wrap dst x | .raw dst x =>
    match checkOperand c scope (some .word) (some x) with
    | some r => .error r
    | none => defineFresh scope dst .word

/-- The scope a list of statements leaves, each checked in the scope the earlier ones leave (R62, R63), or the first refusal
met. -/
def programScope (c : Config) : Scope → List Stmt → Except Refusal Scope
  | scope, [] => .ok scope
  | scope, st :: rest =>
    match checkStmt c scope st with
    | .error r => .error r
    | .ok e => programScope c (e :: scope) rest

/-- The first refusal the statements of a program meet, if any (R62, R63). -/
def checkProgram (c : Config) (scope : Scope) (p : List Stmt) : Option Refusal :=
  match programScope c scope p with
  | .error r => some r
  | .ok _ => none

/-- A name that stands twice in a scope. -/
def duplicateName? : Scope → Option Name
  | [] => none
  | e :: rest => if (Scope.kindOf rest e.1).isSome then some e.1 else duplicateName? rest

/-- Why the program a state holds is refused (R62, R63, R212); `none` where it is well-formed. -/
def State.programRefusal (s : State) : Option Refusal :=
  match duplicateName? s.scope with
  | some n => some (.duplicateName n)
  | none => checkProgram s.cfg s.scope s.pending

/-- Bind a name (R63). -/
def State.define (s : State) (dst : Name) (k : Kind) (v : BitVec s.cfg.W) : State :=
  { s with bound := { name := dst, kind := k, value := v } :: s.bound }

/-- Present a request on the lines (R21). -/
def State.drive (s : State) (cw : ControlWord) (a b : BitVec s.cfg.W) : State := { s with cw := cw, a := a, b := b }

/-- The kind of the result of a control word (R54); a word that is no instruction has no result. -/
def resultKindOf (cw : ControlWord) : Kind :=
  match decode cw with
  | .ok instr => resultKind instr
  | .error _ => .word

/-- Perform one statement: drive its operands, perform the transaction, bind the name to `r` with the operation's result
kind (R60, R63); `WRAP` and `RAW` perform no transaction (R61) but are a step of the requester (log entry 12). -/
def perform (s : State) : Stmt → Ending
  | .transact dst cw x y =>
    match s.lineValue s.a x with
    | .error r => .refused r
    | .ok a =>
      match s.lineValue s.b y with
      | .error r => .refused r
      | .ok b => andThen (transact cw (s.drive cw a b)) fun t => .next (t.define dst (resultKindOf cw) t.r)
  | .wrap dst x | .raw dst x =>
    match s.sourceValue x with
    | .error r => .refused r
    | .ok v => .next (s.define dst .word v)

/-- Take the next statement of the program; the whole of what is left is checked before any of it runs, since a refused
program is never run (R212, R213; DEDUCED, safe, log entry 16). With no statement left, the lines stand as they are and the
unit answers them (DEDUCED, log entry 11). -/
def nextStatement (s : State) : Ending :=
  match s.pending with
  | [] => issue s
  | st :: rest =>
    match s.programRefusal with
    | some r => .refused r
    | none => perform { s with pending := rest } st

/-- A program placed before an instance: its inputs bound as Words (R25, R62), its statements to be performed, every line
at 0, nothing recorded (R63). -/
def State.load (c : Config) (inputs : List (Name × BitVec c.W)) (program : List Stmt) : State :=
  { cfg := c, cw := 0, a := 0, b := 0, r := 0, pending := program,
    bound := inputs.map fun e => { name := e.1, kind := .word, value := e.2 }, recorded := none }

end Sys2Proof.Machine
end

