-- ==== Sys2Proof/Machine/Step.lean ====
section
/-! DEFINITION. Machine/Step.lean: one step: the next statement of the requester's program, or, where none is left, the
transaction the lines stand at (`30_encoding.md` R63, `10_state.md` R21). -/

namespace Sys2Proof.Machine

/-- One step. A recorded fault ended the run and is never cleared within it (R211). -/
def step (s : State) : Host.Outcome State Fault Refusal :=
  match s.recorded with
  | some f => .fault f
  | none => nextStatement s

/-- The state in which the very next step performs the table word w: the word on port `cw`, no statement before it and no
fault recorded; the operand lines and `r` stay as they are, and the step reads no `r` (log entries 4, 21). -/
def State.withFetchWord (s : State) (nbits w : Nat) : State :=
  { s with cw := BitVec.ofNat 17 (w % 2 ^ nbits), pending := [], recorded := none }

end Sys2Proof.Machine
end

