-- ==== Sys2Proof/Machine/Assembler.lean ====
section
/-! DEFINITION. Machine/Assembler.lean: the program text of `30_encoding.md` R60 and R61 as data: a mnemonic or
pseudo-operation, its operands and its keyword fields, and the statement they stand for. Nothing in the hardware reads it.
DESIGN CHOICE, safe (log entry 18): a keyword the mnemonic has no use for, or a value its field cannot hold, is an error. -/

namespace Sys2Proof.Machine

/-- The word a statement begins with: a mnemonic of R54 or a pseudo-operation of R61. -/
inductive Mnemonic where
  | ZERO | PATTERN | TOPCLR | ISOLSB | CLRLSB | MASKLOW | ISOLSBITS | CLRLSBITS | AT | CLEAR | SET | TOP | LSBIDX
  | OR | AND | XOR | BROADCAST | EQ | POPCNT | GE | GEMSBOFF | BNOT | BCLEAR | BEST | BANY
  | ONES | MSBS | POPCOUNT | WRAP | RAW
  deriving DecidableEq, Repr

/-- A written statement (R60). -/
structure SourceStmt where
  dst : Name
  mnemonic : Mnemonic
  a : Option Source := none
  b : Option Source := none
  lane : Option Nat := none
  bit : Option Nat := none
  level : Option Nat := none
  width : Option Nat := none
  deriving DecidableEq, Repr

/-- Why a written statement stands for none. -/
inductive AssemblyError where
  /-- a keyword field the mnemonic needs is not written -/
  | missingField
  /-- a keyword field is written that the mnemonic has no use for -/
  | unexpectedField
  /-- a field value of more than 6 bits -/
  | fieldTooWide (v : Nat)
  /-- `width=` is no power of two -/
  | widthNotPowerOfTwo (v : Nat)
  /-- `WRAP` or `RAW` without its one operand, or with two -/
  | operandCount
  deriving DecidableEq, Repr

/-- A keyword field as a 6-bit control-word field (R51, R52). -/
def smallField (v : Option Nat) : Except AssemblyError SmallField :=
  match v with
  | none => .error .missingField
  | some v => if v < 64 then .ok (BitVec.ofNat 6 v) else .error (.fieldTooWide v)

/-- `width=P` fills i with log2 P, and P must be a power of two (R60). -/
def widthField (v : Option Nat) : Except AssemblyError SmallField :=
  match v with
  | none => .error .missingField
  | some P =>
    match (List.range 64).find? fun n => 2 ^ n == P with
    | none => .error (.widthNotPowerOfTwo P)
    | some n => .ok (BitVec.ofNat 6 n)

/-- The instruction a written statement names, with its keyword fields in their places (R60); `none` for a word that names
no transaction of its own. -/
def sourceInstr (t : SourceStmt) : Except AssemblyError (Option Instr) :=
  let noFields (instr : Option Instr) : Except AssemblyError (Option Instr) :=
    if t.lane = none ∧ t.bit = none ∧ t.level = none ∧ t.width = none then .ok instr else .error .unexpectedField
  let bare (instr : Instr) : Except AssemblyError (Option Instr) := noFields (some instr)
  let withLane (instr : SmallField → Instr) : Except AssemblyError (Option Instr) :=
    if t.bit = none ∧ t.level = none ∧ t.width = none then (smallField t.lane).map fun i => some (instr i)
    else .error .unexpectedField
  match t.mnemonic with
  | .ZERO => bare .zero
  | .PATTERN =>
    if t.lane = none ∧ t.bit = none ∧ t.level = none then (widthField t.width).map fun i => some (.pattern i)
    else .error .unexpectedField
  | .TOPCLR => bare .topclr
  | .ISOLSB => bare .isolsb
  | .CLRLSB => bare .clrlsb
  | .MASKLOW => bare .masklow
  | .ISOLSBITS => bare .isolsbits
  | .CLRLSBITS => bare .clrlsbits
  | .AT => withLane .atLane
  | .CLEAR => withLane .clear
  | .SET =>
    if t.level = none ∧ t.width = none then
      match smallField t.lane, smallField t.bit with
      | .ok i, .ok j => .ok (some (.set i j))
      | .error e, _ => .error e
      | .ok _, .error e => .error e
    else .error .unexpectedField
  | .TOP => bare .top
  | .LSBIDX => bare .lsbidx
  | .OR => bare .or
  | .AND => bare .and
  | .XOR => bare .xor
  | .BROADCAST => bare .broadcast
  | .EQ => bare .eq
  | .POPCNT =>
    if t.lane = none ∧ t.bit = none ∧ t.width = none then (smallField t.level).map fun i => some (.popcnt i)
    else .error .unexpectedField
  | .GE => bare .ge
  | .GEMSBOFF => bare .gemsboff
  | .BNOT => bare .bnot
  | .BCLEAR => withLane .bclear
  | .BEST => bare .best
  | .BANY => bare .bany
  | .POPCOUNT => bare (.popcnt 5)
  | .ONES | .MSBS | .WRAP | .RAW => noFields none

/-- The statement a written statement stands for in the instance c: a transaction with its control word (R60), or the
expansion of a pseudo-operation (R61). -/
def assemble (c : Config) (t : SourceStmt) : Except AssemblyError Stmt :=
  let pattern (value : Nat) : Except AssemblyError Stmt :=
    (widthField (some c.N)).map fun i => .transact t.dst (encode (.pattern i)) (some (.lit value)) none
  match t.mnemonic, sourceInstr t with
  | _, .error e => .error e
  | _, .ok (some instr) => .ok (.transact t.dst (encode instr) t.a t.b)
  | .ONES, .ok none => pattern 1
  | .MSBS, .ok none => pattern (2 ^ (c.N - 1))
  | .WRAP, .ok none =>
    match t.a, t.b with
    | some x, none => .ok (.wrap t.dst x)
    | _, _ => .error .operandCount
  | .RAW, .ok none =>
    match t.a, t.b with
    | some x, none => .ok (.raw t.dst x)
    | _, _ => .error .operandCount
  | _, .ok none => .error .operandCount

end Sys2Proof.Machine
end

