-- ==== Sys2Proof/Machine/Elaborate.lean ====
section
/-! DEFINITION. Machine/Elaborate.lean: what happens before an instance exists and between two of them (`60_exceptions.md`
R212 reason X7, `00_scope.md` R6, R7): elaborating an instance from its parameters, and feeding the result of one into an
operand port of another. What two instances do at the same time is left out (log entry 15); a result carries no kind across,
and a run that recorded a fault has none to feed (log entry 20). -/

namespace Sys2Proof.Machine

/-- Elaborate an instance; X7 unless W is 8, 16, 32 or 64, N is at least 1 and divides W (R6, R7, R212), and
POP_HW_MIN_LEVEL is in 2..6 (R156; the reason for a switch level out of range is log entry 8). -/
def elaborate (W N popHwMinLevel latency : Nat) : Except Refusal Config :=
  if h : ParametersAdmitted W N popHwMinLevel then
    .ok { W := W, N := N, popHwMinLevel := popHwMinLevel, latency := latency, admitted := h }
  else .error .badConfiguration

/-- Feed the result of one instance into a line of another as a lane-packed word: X7 unless both have the same (W, N) (R212).
A transaction that faulted leaves no value a model may read (R211, `93_implementation_defined.md` U12): where the source's
run has recorded a fault, the wiring ends in that fault and no line changes, after the refusal as R213 ranks them (DEDUCED,
safe, log entry 20). -/
def wire (src dst : State) (k : BitVec dst.cfg.W → State) : Ending :=
  if h : src.cfg.W = dst.cfg.W ∧ src.cfg.N = dst.cfg.N then
    match src.recorded with
    | some f => .fault f
    | none => .next (k (src.r.cast h.1))
  else .refused .badConfiguration

/-- Feed the result of one instance to port `a` of another (R212). -/
def wireA (src dst : State) : Ending := wire src dst fun v => { dst with a := v }

/-- Feed the result of one instance to port `b` of another (R212). -/
def wireB (src dst : State) : Ending := wire src dst fun v => { dst with b := v }

end Sys2Proof.Machine
end

