-- ==== Sys2Proof/Machine/Run.lean ====
section
/-! DEFINITION. Machine/Run.lean: the run of a program to its end state (`30_encoding.md` R63): the bound names with their
values and kinds, and the fault if any. A refused program has no end state (R212). -/

namespace Sys2Proof.Machine

/-- One step of a run: a fault is recorded in the requester's mark, and the names bound before it stay (R63, R211).
DESIGN CHOICE, unsafe (log entry 21): R63's end state names only the bindings and the fault, and R211 leaves `r` unspecified;
the state kept here has `cw`, `a`, `b`, `r` and `pending` as they were before the faulting statement, which stays pending,
and its `r` is not the value the hardware leaves there. Nothing reads that `r`: no step is performed from the state, and
`wire` ends in the fault. -/
def advance (s : State) : Except Refusal State :=
  match step s with
  | .next t => .ok t
  | .fault f => .ok { s with recorded := some f }
  | .refused r => .error r

/-- At most `fuel` statements of a run; it stops at a recorded fault and after the last statement (R63). -/
def runFor : Nat → State → Except Refusal State
  | 0, s => .ok s
  | fuel + 1, s =>
    match s.recorded, s.pending with
    | none, _ :: _ =>
      match advance s with
      | .error r => .error r
      | .ok t => runFor fuel t
    | _, _ => .ok s

/-- The end state of the program a state holds, or the reason it is refused (R63, R212). -/
def runProgram (s : State) : Except Refusal State :=
  match s.programRefusal with
  | some r => .error r
  | none => runFor s.pending.length s

end Sys2Proof.Machine
end

