-- ==== Sys2Proof/Safety.lean ====
section
/-! DEFINITION. Safety.lean: what counts as a safe state or run, and the words the statements use. -/

namespace Sys2Proof.Machine

/-- The instruction completes and answers v: the next state is s with v on `r` and nothing else changed (R29). -/
def Answers (instr : Instr) (s : State) (v : BitVec s.cfg.W) : Prop := exec instr s = .next (s.setR v)

/-- `Lane(v, k)` on naturals, as R23 writes it: `(v >> (k*N)) & (2^N - 1)`. The statements say results through it, and not
through the word operations of the meanings. -/
def laneNat {W : Nat} (N : Nat) (v : BitVec W) (k : Nat) : Nat := v.toNat / 2 ^ (k * N) % 2 ^ N

/-- The number of 1 bits among the `n` bits of v from bit `lo` up. -/
def onesAmong {W : Nat} (v : BitVec W) (lo n : Nat) : Nat := ((List.range n).filter fun q => v.getLsbD (lo + q)).length

/-- What an observer of the result port sees of an ending. -/
inductive Answer where
  | value (n : Nat)
  | fault (f : Fault)
  | refused (x : Refusal)
  deriving DecidableEq, Repr

/-- The answer of an ending. -/
def answer : Ending → Answer
  | .next t => .value t.r.toNat
  | .fault f => .fault f
  | .refused x => .refused x

/-- Every bound name of kind Bool satisfies the invariant `x & ~MSBS = 0` (R24, R195). -/
def State.BoolsKept (s : State) : Prop := ∀ e ∈ s.bound, e.kind = .bool → isBoolWord s.cfg e.value = true

/-- The request the lines stand at is legal for the instance (R55, R232). -/
def State.LinesLegal (s : State) : Prop := ∃ instr, requestInstr s.cfg s.cw = .ok instr

/-- The program is well-formed and no fault is recorded (R63). -/
def State.Accepted (s : State) : Prop := s.recorded = none ∧ s.programRefusal = none

/-- The requester's side of the state, with the value the port `r` last carried, replaced by another's. -/
def State.withHistory (s : State) (r : BitVec s.cfg.W) (pending : List Stmt) (bound : List (Binding s.cfg.W))
    (recorded : Option Fault) : State :=
  { s with r := r, pending := pending, bound := bound, recorded := recorded }

/-- The same lines before an instance that differs only in its OPEN parameters POP_HW_MIN_LEVEL and LATENCY (R8). -/
def State.withOpenParameters (s : State) (h latency : Nat) (ok : 2 ≤ h ∧ h ≤ 6) : State :=
  { cfg := { s.cfg with popHwMinLevel := h, latency := latency, admitted := ⟨s.cfg.admitted.1, s.cfg.admitted.2.1, ok⟩ },
    cw := s.cw, a := s.a, b := s.b, r := s.r, pending := s.pending, bound := s.bound, recorded := s.recorded }

/-- The control word n, written as a number, is the instruction's and no other's (R51, R54). -/
def Encodes (n : Nat) (instr : Instr) : Prop := encode instr = BitVec.ofNat 17 n ∧ decode (BitVec.ofNat 17 n) = .ok instr

end Sys2Proof.Machine
end

