-- ==== Sys2Proof/Certificates/Slice0/Obligations.lean ====
section
/-! DEFINITION. Certificates/Slice0/Obligations.lean: the statements about the unit, in the order of the spec's files (the
last, of 40_pattern.md, apart). Every statement is about every admitted instance and every state, those no run reaches among
them. A result is said through the bits of the word or through the lanes of R23 on naturals (`laneNat`).
`Answers instr s v` says that `exec instr s` completes in the state that is s with v on `r`: it states the result, the
completion and the frame at once (R29). -/

open Sys2Proof Sys2Proof.Machine

/-! ### Lanes, constants, instances -/

/-- R23: a word is the sum of its lanes, and the lane the word operations compute is the lane of the naturals, below 2^N. -/
def Obligations.LanesMakeTheWord : Prop :=
  ∀ (c : Config) (v : BitVec c.W),
    v.toNat = ∑ k ∈ Finset.range c.L, laneNat c.N v k * 2 ^ (k * c.N) ∧
    (∀ k, (lane c.N v k).toNat = laneNat c.N v k ∧ laneNat c.N v k < 2 ^ c.N) ∧
    (∀ k < c.L, (laneMask c.W c.N k).toNat = (2 ^ c.N - 1) * 2 ^ (k * c.N)) ∧
    (∀ k < c.L, ∀ q < c.N, (laneNat c.N v k).testBit q = v.getLsbD (k * c.N + q))

/-- `00_scope.md` section 4 (the sentence of R7 that the spec marks as derived): the lane width and the lane count of every
instance are powers of two, and together they make the word. -/
def Obligations.LaneWidthsArePowersOfTwo : Prop :=
  (∀ c : Config, c.L * c.N = c.W ∧ ∃ k m, c.N = 2 ^ k ∧ c.L = 2 ^ m) ∧
  (∀ W N : Nat, (W = 8 ∨ W = 16 ∨ W = 32 ∨ W = 64) →
    ((0 < N ∧ W % N = 0) ↔ ∃ k, N = 2 ^ k ∧ 1 ≤ N ∧ N ≤ W))

/-- R212 X7 and `00_scope.md` section 4: an instance is elaborated, with its parameters as asked, exactly when they are
admitted, and refused by X7 otherwise; the result of one instance is fed to another exactly when both have the same
(W, N). R211: where the source's run has recorded a fault, no value is fed and the wiring ends in that fault (log entry 20).
That a switch level outside 2..6 is refused by this reason is the model's choice (log entry 8). -/
def Obligations.BadConfigurationRefused : Prop :=
  (∀ W N h latency : Nat,
    (ParametersAdmitted W N h → ∃ c, elaborate W N h latency = .ok c ∧ c.W = W ∧ c.N = N ∧ c.popHwMinLevel = h ∧
      c.latency = latency) ∧
    (¬ParametersAdmitted W N h → elaborate W N h latency = .error .badConfiguration)) ∧
  (∀ src dst : State,
    (src.cfg.W = dst.cfg.W ∧ src.cfg.N = dst.cfg.N → src.recorded = none →
      ∃ v w, wireA src dst = .next { dst with a := v } ∧ wireB src dst = .next { dst with b := w } ∧
        v.toNat = src.r.toNat ∧ w.toNat = src.r.toNat) ∧
    (∀ f, src.cfg.W = dst.cfg.W ∧ src.cfg.N = dst.cfg.N → src.recorded = some f →
      wireA src dst = .fault f ∧ wireB src dst = .fault f) ∧
    (¬(src.cfg.W = dst.cfg.W ∧ src.cfg.N = dst.cfg.N) →
      wireA src dst = .refused .badConfiguration ∧ wireB src dst = .refused .badConfiguration))

/-- R83: ONES has a 1 in the lowest bit of every lane, MSBS in the highest, LOWMASK(N) in every bit of lane 0, and no 1
elsewhere; and the identities R83 gives (the spec marks the values as derived from R80). -/
def Obligations.ConstantMasks : Prop :=
  ∀ c : Config,
    (∀ n < c.W, (ones c).getLsbD n = decide (n % c.N = 0) ∧
      (msbs c).getLsbD n = decide (n % c.N = c.N - 1) ∧
      (lowMask c.W c.N).getLsbD n = decide (n < c.N)) ∧
    msbs c = ones c <<< (c.N - 1) ∧
    (ones c).toNat * (2 ^ c.N - 1) = 2 ^ c.W - 1 ∧
    (∀ x < 2 ^ c.N, ∃ v, pat? (BitVec.ofNat c.W x) c.N = some v ∧ x * (ones c).toNat = v.toNat)

/-! ### Encoding -/

/-- R60, R54, R55: some control words written out from the field layout, one of every family and the reserved ones. -/
def Obligations.SampleControlWordsDecode : Prop :=
  decode 0b000000_000000_00000 = .ok .zero ∧ decode 0b000000_000011_00001 = .ok (.pattern 3) ∧
  decode 0b000000_000000_00110 = .ok .isolsbits ∧ decode 0b000101_000010_01010 = .ok (.set 2 5) ∧
  decode 0b000000_000010_10010 = .ok (.popcnt 2) ∧ decode 0b000000_000000_10011 = .ok .ge ∧
  decode 0b000000_000100_10110 = .ok (.bclear 4) ∧ decode 0b000000_000000_11001 = .error .reservedOpcode ∧
  decode 0b000001_000000_00010 = .error .nonZeroUnusedField ∧ decode 0b000000_000110_10010 = .error .popLevelReserved

/-- R51, R54: the decoder reads back every instruction some instance admits, with every field at every value. -/
def Obligations.DecodeEncodeAgree : Prop := ∀ instr : Instr, instr.wf = true → decode (encode instr) = .ok instr

/-- R51, R55: a control word that decodes is the one encoding of its instruction, so no bit of it is ignored. -/
def Obligations.DecodeOnlyCanonicalWords : Prop :=
  ∀ (cw : ControlWord) (instr : Instr), decode cw = .ok instr → encode instr = cw ∧ instr.wf = true

/-- R51: the three fields at their bits, `cw = opc + 32*i + 2048*j`, and the fields a format does not use are 0. -/
def Obligations.ControlWordLayout : Prop :=
  (∀ cw : ControlWord, (opcField cw).toNat = cw.toNat % 32 ∧ (iField cw).toNat = cw.toNat / 32 % 64 ∧
    (jField cw).toNat = cw.toNat / 2048) ∧
  (∀ instr : Instr, (encode instr).toNat = instr.opcode.toNat + 32 * instr.iValue.toNat + 2048 * instr.jValue.toNat) ∧
  (∀ (cw : ControlWord) (instr : Instr), decode cw = .ok instr →
    (jField cw ≠ 0 → instr.opcode = 0x0A) ∧ (iField cw ≠ 0 → instr.opcode ∈ [0x01, 0x08, 0x09, 0x0A, 0x12, 0x16]))

/-- R55: a control word is legal for an instance exactly when the five conditions hold, and a word that breaks one of them
alone is refused by that condition's reason. -/
def Obligations.RequestLegalExactly : Prop :=
  ∀ (c : Config) (cw : ControlWord),
    let opc := (opcField cw).toNat
    let known := opc ≤ 0x18
    let unusedZero := (iField cw ≠ 0 → opc ∈ [0x01, 0x08, 0x09, 0x0A, 0x12, 0x16]) ∧ (jField cw ≠ 0 → opc = 0x0A)
    let widthFits := opc = 0x01 → (iField cw).toNat ≤ Nat.log2 c.W
    let levelFits := opc = 0x12 → (iField cw).toNat ≤ 5
    let lanesWide := 0x13 ≤ opc ∧ opc ≤ 0x18 → 1 < c.N
    ((∃ instr, requestInstr c cw = .ok instr) ↔ known ∧ unusedZero ∧ widthFits ∧ levelFits ∧ lanesWide) ∧
    (¬known → requestInstr c cw = .error .reservedOpcode) ∧
    (known → ¬unusedZero → widthFits → levelFits → lanesWide → requestInstr c cw = .error .nonZeroUnusedField) ∧
    (known → unusedZero → ¬widthFits → requestInstr c cw = .error .patternWidthUnsupported) ∧
    (known → unusedZero → ¬levelFits → requestInstr c cw = .error .popLevelReserved) ∧
    (known → unusedZero → ¬lanesWide → requestInstr c cw = .error .degenerateLane)

/-! ### The step -/

/-- R21, R50: where no statement is left, a step performs the operation the control word on the lines decodes to, so the
state with a table word in the place of the next request performs that word's instruction. -/
def Obligations.StepRunsRequestOnLines : Prop :=
  (∀ (s : State) (instr : Instr), s.recorded = none → s.pending = [] → decode s.cw = .ok instr →
    step s = exec instr s) ∧
  (∀ (s : State) (nbits w : Nat) (instr : Instr), decodeTableWord nbits w = some instr →
    step (s.withFetchWord nbits w) = exec instr (s.withFetchWord nbits w))

/-- R60, R63: where a statement of an accepted program is next, a step drives the statement's operands, runs the
instruction its control word decodes to, and binds the name to `r` with the operation's result kind; the statement is
then no longer pending. (What an unwritten operand leaves on its line: log entry 7; a result never depends on it.) -/
def Obligations.StepRunsNextStatement : Prop :=
  ∀ (s : State) (dst : Name) (cw : ControlWord) (x y : Option Source) (rest : List Stmt) (instr : Instr)
    (va vb : BitVec s.cfg.W),
    s.Accepted → s.pending = .transact dst cw x y :: rest → decode cw = .ok instr →
    s.lineValue s.a x = .ok va → s.lineValue s.b y = .ok vb →
    step s = andThen (exec instr { s with cw := cw, a := va, b := vb, pending := rest })
      fun t => .next { t with bound := { name := dst, kind := resultKind instr, value := t.r } :: t.bound }

/-- R132: WRAP and RAW perform no transaction, and R61: the name is bound to the same bits with kind Word. That they are a step
of their own, in which no port changes, is the model's choice (log entry 12). -/
def Obligations.WrapAndRawPerformNoTransaction : Prop :=
  ∀ (s : State) (dst : Name) (x : Source) (rest : List Stmt) (st : Stmt) (v : BitVec s.cfg.W),
    s.Accepted → s.pending = st :: rest → (st = .wrap dst x ∨ st = .raw dst x) → s.sourceValue x = .ok v →
    step s = .next { s with pending := rest, bound := { name := dst, kind := .word, value := v } :: s.bound }

/-- R213: a refusal is decided before any operand value is looked at, of one instruction and of a whole program; and SET,
the one operation that can meet two fault conditions, reports the lane index. R213 speaks of no step: that a step with no
statement left answers the lines is log entry 11, and that what is left of a program is checked before each statement is
log entry 16. -/
def Obligations.RefusalBeforeFault : Prop :=
  (∀ (instr : Instr) (s : State) (x : Refusal), exec instr s = .refused x ↔ legality s.cfg instr = some x) ∧
  (∀ (s : State) (x : Refusal), s.recorded = none → s.pending = [] → requestInstr s.cfg s.cw = .error x →
    step s = .refused x) ∧
  (∀ (s : State) (st : Stmt) (rest : List Stmt) (x : Refusal), s.recorded = none → s.pending = st :: rest →
    s.programRefusal = some x → step s = .refused x) ∧
  (∀ (i j : SmallField) (s : State), s.cfg.L ≤ i.toNat → s.cfg.N ≤ j.toNat →
    exec (.set i j) s = .fault (.laneIndexOutOfRange i.toNat))

/-- R211, R63: a fault ends the run with the names bound before it; the mark is never cleared and no later statement is
performed. That the lines, `r` and the pending statements of the state kept are those of before the faulting statement is
the model's choice (log entry 21). -/
def Obligations.FaultStopsTheRun : Prop :=
  (∀ (s : State) (f : Fault), step s = .fault f →
    advance s = .ok { s with recorded := some f } ∧
    (∀ n, runFor n { s with recorded := some f } = .ok { s with recorded := some f })) ∧
  (∀ (s : State) (f : Fault), s.recorded = some f → step s = .fault f)

/-- R32, R120: lines at 0 are the request ZERO, which answers 0, so idle lines stay idle; a name no statement has defined
has no value. The reset state's choice of instance is the model's (log entry 1); the statement says it of every
instance. -/
def Obligations.IdleLinesReadZero : Prop :=
  (∀ c : Config, step (State.load c [] []) = .next (State.load c [] [])) ∧
  State.reset = State.load Config.word64lane8 [] [] ∧
  (∀ (c : Config) (program : List Stmt) (n : Name), (State.load c [] program).valueOf n = none)

/-- R20: the answer of a transaction is a function of its control word and operands and of the instance's parameters: not
of what the port last carried, of the program, of the names bound or of a fault recorded before. -/
def Obligations.ResultDependsOnRequestOnly : Prop :=
  ∀ (cw : ControlWord) (s : State) (r : BitVec s.cfg.W) (pending : List Stmt) (bound : List (Binding s.cfg.W))
    (recorded : Option Fault),
    answer (transact cw (s.withHistory r pending bound recorded)) = answer (transact cw s)

/-- R29: no operation writes anything but `r`, and EQ and BANY return 0 or 1 on it. -/
def Obligations.OperationsWriteOnlyResult : Prop :=
  ∀ (instr : Instr) (s t : State), exec instr s = .next t →
    ∃ v, t = s.setR v ∧ (instr = .eq ∨ instr = .bany → v = 0 ∨ v = 1)

/-- R21: an operation that does not use `b` ignores it, and one that does not use `a` ignores `a`. -/
def Obligations.IgnoredOperandsIgnored : Prop :=
  ∀ (instr : Instr) (s : State) (v : BitVec s.cfg.W),
    (bKind instr = none → answer (exec instr { s with b := v }) = answer (exec instr s)) ∧
    (aKind instr = none → answer (exec instr { s with a := v }) = answer (exec instr s))

/-- R44: repeating a transaction gives the same result and changes nothing. -/
def Obligations.RepeatingChangesNothing : Prop :=
  ∀ (cw : ControlWord) (s t : State), transact cw s = .next t → transact cw t = .next t

/-- R156, R157, R235: no answer depends on POP_HW_MIN_LEVEL or on LATENCY. -/
def Obligations.OpenParametersInvisible : Prop :=
  ∀ (cw : ControlWord) (s : State) (h latency : Nat) (ok : 2 ≤ h ∧ h ≤ 6),
    answer (transact cw (s.withOpenParameters h latency ok)) = answer (transact cw s)

/-- R6, R30: a step never changes the instance's parameters. -/
def Obligations.ParametersNeverChange : Prop := ∀ s t : State, step s = .next t → t.cfg = s.cfg

/-! ### Repeating-Pattern Generator -/

/-- R81, R80: PATTERN completes for every width up to W and every value that fits it, and every field of P bits of its
result is the pattern, in the closed form R80 gives and marks as derived; F6 for a wider value, X3 for a wider pattern. -/
def Obligations.PatternReplicates : Prop :=
  ∀ (i : SmallField) (s : State),
    let P := 2 ^ i.toNat
    (i.toNat ≤ 6 → Encodes (0x01 + 32 * i.toNat) (.pattern i)) ∧ resultKind (.pattern i) = .word ∧
    (P ≤ s.cfg.W → s.a.toNat < 2 ^ P →
      ∃ v, Answers (.pattern i) s v ∧ v.toNat = ∑ m ∈ Finset.range (s.cfg.W / P), s.a.toNat * 2 ^ (m * P)) ∧
    (P ≤ s.cfg.W → 2 ^ P ≤ s.a.toNat → exec (.pattern i) s = .fault (.patternValueTooWide s.a.toNat P)) ∧
    (s.cfg.W < P → exec (.pattern i) s = .refused .patternWidthUnsupported)

/-- R85: the result of PATTERN masked to the first P bits is the pattern, and it is periodic with period P in each of the
three forms of R85, which the spec marks as derived from R80. -/
def Obligations.PatternPeriodic : Prop :=
  ∀ (i : SmallField) (s : State) (v : BitVec s.cfg.W), Answers (.pattern i) s v →
    let P := 2 ^ i.toNat
    v &&& lowMask s.cfg.W P = s.a ∧
    (∀ n, n + P < s.cfg.W → v.getLsbD (n + P) = v.getLsbD n) ∧
    (∀ m < s.cfg.W / P, v >>> (m * P) = v &&& lowMask s.cfg.W (s.cfg.W - m * P)) ∧
    (∀ m < s.cfg.W / P, v.rotateRight (m * P) = v)

/-- R120, R84, R103: ZERO answers 0, TOPCLR answers LOWMASK(W - W mod N), which is all ones in every instance, and MASKLOW
answers 2^N - 1; all three complete in every state. -/
def Obligations.ConstantOperationsAnswer : Prop :=
  ∀ s : State,
    Encodes 0x00 .zero ∧ Encodes 0x02 .topclr ∧ Encodes 0x05 .masklow ∧
    resultKind .zero = .word ∧ resultKind .topclr = .word ∧ resultKind .masklow = .word ∧
    Answers .zero s 0 ∧
    (∃ v, Answers .topclr s v ∧ v.toNat = 2 ^ (s.cfg.W - s.cfg.W % s.cfg.N) - 1 ∧ v = BitVec.allOnes s.cfg.W) ∧
    (∃ v, Answers .masklow s v ∧ v.toNat = 2 ^ s.cfg.N - 1)

/-! ### Bit-Isolation Primitives -/

/-- R100, R101: for a word whose lowest set bit is p, ISOLSB answers 2^p and CLRLSB takes 2^p away; both answer 0 for 0. -/
def Obligations.LowestBitIsolatedAndCleared : Prop :=
  ∀ s : State,
    Encodes 0x03 .isolsb ∧ Encodes 0x04 .clrlsb ∧ resultKind .isolsb = .word ∧ resultKind .clrlsb = .word ∧
    (s.a = 0 → Answers .isolsb s 0 ∧ Answers .clrlsb s 0) ∧
    (s.a ≠ 0 → ∃ p, s.a.getLsbD p = true ∧ (∀ q < p, s.a.getLsbD q = false) ∧
      (∃ v, Answers .isolsb s v ∧ v.toNat = 2 ^ p) ∧ (∃ v, Answers .clrlsb s v ∧ v.toNat + 2 ^ p = s.a.toNat))

/-- R102: for every word, what ISOLSB and CLRLSB answer has the word as its OR and 0 as its AND. -/
def Obligations.LowestBitPartition : Prop :=
  ∀ s : State, ∃ v w, Answers .isolsb s v ∧ Answers .clrlsb s w ∧ v ||| w = s.a ∧ v &&& w = 0

/-- R104, R105, R106: the lane that holds the lowest set bit is the lowest lane that is not 0; ISOLSBITS keeps that lane
alone and CLRLSBITS clears it alone; a lane as wide as the word keeps and clears it whole, and with one-bit lanes they are
ISOLSB and CLRLSB; both answer 0 for 0. That the two answers partition the word is an inference R106 marks as the spec's
own (from R105 and R106; the source states it for the one-bit pair only). -/
def Obligations.LowestLaneIsolatedAndCleared : Prop :=
  ∀ s : State,
    Encodes 0x06 .isolsbits ∧ Encodes 0x07 .clrlsbits ∧ resultKind .isolsbits = .word ∧
    resultKind .clrlsbits = .word ∧
    (∃ v w, Answers .isolsbits s v ∧ Answers .clrlsbits s w ∧ v ||| w = s.a ∧ v &&& w = 0 ∧
      (s.cfg.N = s.cfg.W → v = s.a ∧ w = 0) ∧ (s.cfg.N = 1 → Answers .isolsb s v ∧ Answers .clrlsb s w)) ∧
    (s.a = 0 → Answers .isolsbits s 0 ∧ Answers .clrlsbits s 0 ∧ lsbLane? s.cfg.N s.a = none) ∧
    (s.a ≠ 0 → ∃ p k, s.a.getLsbD p = true ∧ (∀ q < p, s.a.getLsbD q = false) ∧ k = p / s.cfg.N ∧ k < s.cfg.L ∧
      lsbLane? s.cfg.N s.a = some k ∧ laneNat s.cfg.N s.a k ≠ 0 ∧ (∀ m < k, laneNat s.cfg.N s.a m = 0) ∧
      (∃ v, Answers .isolsbits s v ∧
        ∀ m < s.cfg.L, laneNat s.cfg.N v m = if m = k then laneNat s.cfg.N s.a m else 0) ∧
      (∃ v, Answers .clrlsbits s v ∧
        ∀ m < s.cfg.L, laneNat s.cfg.N v m = if m = k then 0 else laneNat s.cfg.N s.a m))

/-! ### Lane-Packed Word -/

/-- R121: AT answers the value of lane i where i is below L; F1 where it is not. -/
def Obligations.AtReadsLane : Prop :=
  ∀ (i : SmallField) (s : State),
    Encodes (0x08 + 32 * i.toNat) (.atLane i) ∧ resultKind (.atLane i) = .word ∧
    (i.toNat < s.cfg.L → ∃ v, Answers (.atLane i) s v ∧
      v.toNat = s.a.toNat / 2 ^ (i.toNat * s.cfg.N) % 2 ^ s.cfg.N) ∧
    (s.cfg.L ≤ i.toNat → exec (.atLane i) s = .fault (.laneIndexOutOfRange i.toNat))

/-- R122: CLEAR answers a copy with the bits of lane i zeroed where i is below L; F1 where it is not. -/
def Obligations.ClearZeroesLane : Prop :=
  ∀ (i : SmallField) (s : State),
    Encodes (0x09 + 32 * i.toNat) (.clear i) ∧ resultKind (.clear i) = .word ∧
    (i.toNat < s.cfg.L → ∃ v, Answers (.clear i) s v ∧
      ∀ n < s.cfg.W, v.getLsbD n = (s.a.getLsbD n && decide (n / s.cfg.N ≠ i.toNat))) ∧
    (s.cfg.L ≤ i.toNat → exec (.clear i) s = .fault (.laneIndexOutOfRange i.toNat))

/-- R123: SET answers a copy with bit j of lane i set, counted from the lane's lowest bit, where i is below L and j below
N; F1 where i is not, whatever j, and F2 where only j is not. -/
def Obligations.SetSetsOneBit : Prop :=
  ∀ (i j : SmallField) (s : State),
    Encodes (0x0A + 32 * i.toNat + 2048 * j.toNat) (.set i j) ∧ resultKind (.set i j) = .word ∧
    (i.toNat < s.cfg.L → j.toNat < s.cfg.N → ∃ v, Answers (.set i j) s v ∧
      ∀ n < s.cfg.W, v.getLsbD n = (s.a.getLsbD n || decide (n = i.toNat * s.cfg.N + j.toNat))) ∧
    (s.cfg.L ≤ i.toNat → exec (.set i j) s = .fault (.laneIndexOutOfRange i.toNat)) ∧
    (i.toNat < s.cfg.L → s.cfg.N ≤ j.toNat → exec (.set i j) s = .fault (.bitPositionOutOfRange j.toNat))

/-- R131: AT after SET reflects the bit in the one lane and no other; AT after CLEAR reads 0 in the one lane and every
other lane as before. -/
def Obligations.SetAndClearTouchOneLane : Prop :=
  ∀ (i j k : SmallField) (s : State), i.toNat < s.cfg.L → j.toNat < s.cfg.N → k.toNat < s.cfg.L →
    ∃ v w x y z, Answers (.set i j) s v ∧ Answers (.clear i) s w ∧ Answers (.atLane k) s x ∧
      Answers (.atLane k) { s with a := v } y ∧ Answers (.atLane k) { s with a := w } z ∧
      y.toNat = (if k = i then x.toNat ||| 2 ^ j.toNat else x.toNat) ∧ z.toNat = if k = i then 0 else x.toNat

/-- R124: TOP answers the lane of the highest set bit, which is the highest lane that is not 0; F3 for 0. -/
def Obligations.TopAnswersHighestLane : Prop :=
  ∀ s : State,
    Encodes 0x0B .top ∧ resultKind .top = .word ∧
    (s.a ≠ 0 → ∃ p v, s.a.getLsbD p = true ∧ (∀ q, p < q → s.a.getLsbD q = false) ∧
      Answers .top s v ∧ v.toNat = p / s.cfg.N ∧ v.toNat < s.cfg.L ∧ laneNat s.cfg.N s.a v.toNat ≠ 0 ∧
      ∀ m, v.toNat < m → laneNat s.cfg.N s.a m = 0) ∧
    (s.a = 0 → exec .top s = .fault .zeroOperand)

/-- R125: LSBIDX answers the lane of the lowest set bit, which is the lowest lane that is not 0; F3 for 0. -/
def Obligations.LsbidxAnswersLowestLane : Prop :=
  ∀ s : State,
    Encodes 0x0C .lsbidx ∧ resultKind .lsbidx = .word ∧
    (s.a ≠ 0 → ∃ p v, s.a.getLsbD p = true ∧ (∀ q < p, s.a.getLsbD q = false) ∧
      Answers .lsbidx s v ∧ v.toNat = p / s.cfg.N ∧ v.toNat < s.cfg.L ∧ laneNat s.cfg.N s.a v.toNat ≠ 0 ∧
      ∀ m < v.toNat, laneNat s.cfg.N s.a m = 0) ∧
    (s.a = 0 → exec .lsbidx s = .fault .zeroOperand)

/-- R126, R127, R128: OR, AND and XOR combine the two operands bit by bit, in every state. -/
def Obligations.BitwiseOperationsCombine : Prop :=
  ∀ s : State,
    Encodes 0x0D .or ∧ Encodes 0x0E .and ∧ Encodes 0x0F .xor ∧
    resultKind .or = .word ∧ resultKind .and = .word ∧ resultKind .xor = .word ∧
    (∃ v, Answers .or s v ∧ ∀ n, v.getLsbD n = (s.a.getLsbD n || s.b.getLsbD n)) ∧
    (∃ v, Answers .and s v ∧ ∀ n, v.getLsbD n = (s.a.getLsbD n && s.b.getLsbD n)) ∧
    (∃ v, Answers .xor s v ∧ ∀ n, v.getLsbD n = (s.a.getLsbD n ^^ s.b.getLsbD n))

/-- R129: BROADCAST answers the operand in every lane, the product with ONES, which does not overflow, where the operand is
below 2^N; F4 where it is not. -/
def Obligations.BroadcastFillsLanes : Prop :=
  ∀ s : State,
    Encodes 0x10 .broadcast ∧ resultKind .broadcast = .word ∧
    (s.a.toNat < 2 ^ s.cfg.N → ∃ v, Answers .broadcast s v ∧ v.toNat = s.a.toNat * (ones s.cfg).toNat ∧
      ∀ k < s.cfg.L, laneNat s.cfg.N v k = s.a.toNat) ∧
    (2 ^ s.cfg.N ≤ s.a.toNat → exec .broadcast s = .fault (.broadcastOperandTooWide s.a.toNat))

/-- R130: EQ compares all W bits and answers 1 or 0, in every state. -/
def Obligations.EqComparesAllBits : Prop :=
  ∀ s : State,
    Encodes 0x11 .eq ∧ resultKind .eq = .word ∧
    ∃ v, Answers .eq s v ∧ v.toNat = if (∀ n < s.cfg.W, s.a.getLsbD n = s.b.getLsbD n) then 1 else 0

/-! ### Parallel Population Count -/

/-- R150: every group of `PopRef` holds the number of 1 bits of that group of the word. -/
def Obligations.PopRefCountsGroups : Prop :=
  ∀ (lvl : Nat) (v : BitVec 64), lvl ≤ 5 →
    popRef lvl v = BitVec.ofNat 64
      (∑ g ∈ Finset.range (64 / 2 ^ (lvl + 1)), onesAmong v (g * 2 ^ (lvl + 1)) (2 ^ (lvl + 1)) * 2 ^ (g * 2 ^ (lvl + 1))) ∧
    ∀ g < 64 / 2 ^ (lvl + 1),
      laneNat (2 ^ (lvl + 1)) (popRef lvl v) g = onesAmong v (g * 2 ^ (lvl + 1)) (2 ^ (lvl + 1))

/-- R154: the six population-count masks, values the spec marks as derived from R80. -/
def Obligations.PopMaskTable : Prop :=
  popMask 0 = 0x5555555555555555 ∧ popMask 1 = 0x3333333333333333 ∧ popMask 2 = 0x0F0F0F0F0F0F0F0F ∧
  popMask 3 = 0x00FF00FF00FF00FF ∧ popMask 4 = 0x0000FFFF0000FFFF ∧ popMask 5 = 0x00000000FFFFFFFF

/-- R157: the logic tree, the hardware-assisted path and the reference agree bit for bit at every level each has, so no
switch level changes a result. -/
def Obligations.PopulationCountPathsAgree : Prop :=
  (∀ (lvl : PopLevel) (v : BitVec 64), 2 ≤ lvl.val → popLogic lvl v = popHW lvl v ∧ popHW lvl v = popRef lvl v) ∧
  (∀ (lvl : PopLevel) (v : BitVec 64), lvl.val ≤ 1 → popLogic lvl v = popRef lvl v) ∧
  (∀ (H : Nat) (lvl : PopLevel) (v : BitVec 64), 2 ≤ H → H ≤ 6 → pop H lvl v = popRef lvl v)

/-- R158: POPCNT completes at every level up to 5 and answers the reference of the zero-extended operand, truncated to W
bits; X4 above. -/
def Obligations.PopcntAnswersReference : Prop :=
  ∀ (lvl : SmallField) (s : State),
    resultKind (.popcnt lvl) = .word ∧
    (lvl.toNat ≤ 5 → Encodes (0x12 + 32 * lvl.toNat) (.popcnt lvl) ∧
      Answers (.popcnt lvl) s ((popRef lvl.toNat (s.a.setWidth 64)).setWidth s.cfg.W)) ∧
    (5 < lvl.toNat → exec (.popcnt lvl) s = .refused .popLevelReserved)

/-- R159, R158: in every instance, a group that is as wide as the word or wider makes the answer the Hamming weight of the
operand, and narrower groups are counted one by one; at level 5 the answer is always the Hamming weight. -/
def Obligations.PopcntCountsBits : Prop :=
  ∀ (lvl : SmallField) (s : State), lvl.toNat ≤ 5 →
    ∃ v, Answers (.popcnt lvl) s v ∧
      (s.cfg.W ≤ 2 ^ (lvl.toNat + 1) → v.toNat = onesAmong s.a 0 s.cfg.W) ∧
      (2 ^ (lvl.toNat + 1) ≤ s.cfg.W → ∀ g < s.cfg.W / 2 ^ (lvl.toNat + 1),
        laneNat (2 ^ (lvl.toNat + 1)) v g = onesAmong s.a (g * 2 ^ (lvl.toNat + 1)) (2 ^ (lvl.toNat + 1)))

/-! ### Parallel Comparison -/

/-- R170, R171: with lanes wider than one bit and a constant that is a lane value, GE completes and sets exactly the MSB of
the lanes that are at least the constant; F5 for a wider constant, X5 where N = 1. -/
def Obligations.GeMeetsContract : Prop :=
  ∀ s : State,
    Encodes 0x13 .ge ∧ resultKind .ge = .bool ∧
    (1 < s.cfg.N → s.b.toNat < 2 ^ s.cfg.N → ∃ v, Answers .ge s v ∧
      ∀ k < s.cfg.L, laneNat s.cfg.N v k = if s.b.toNat ≤ laneNat s.cfg.N s.a k then 2 ^ (s.cfg.N - 1) else 0) ∧
    (1 < s.cfg.N → 2 ^ s.cfg.N ≤ s.b.toNat → exec .ge s = .fault (.constantTooWide s.b.toNat)) ∧
    (s.cfg.N = 1 → exec .ge s = .refused .degenerateLane)

/-- R173, a datapath the spec marks as derived: the borrow-free form equals the contract for every operand and every
lane-value constant. -/
def Obligations.GeDatapathMeetsContract : Prop :=
  ∀ (c : Config) (a : BitVec c.W) (K : Nat), 1 < c.N → K < 2 ^ c.N → geDatapath c a K = geWord c.N a K

/-- R172: the source's literal algorithm meets the contract on the range R172 gives (the spec's own derivation), and on the two
words outside it for which R172 prints its answers it gives those, which are not the contract's. Nothing is said of the
other words outside the range: there the two can differ, and can agree. -/
def Obligations.GeLiteralRange : Prop :=
  (∀ (c : Config) (a : BitVec c.W) (K : Nat), 1 < c.N →
    (K = 0 ∨ (K ≤ 2 ^ (c.N - 1) ∧
      ∀ k < c.L, laneNat c.N a k < 2 ^ (c.N - 1) ∨ K + 2 ^ (c.N - 1) ≤ laneNat c.N a k)) →
    geLiteral c a K = geWord c.N a K) ∧
  geLiteral Config.word64lane8 (0x4009018000FF0703 : BitVec 64) 100 = 0x0000000000800000 ∧
  geWord 8 (0x4009018000FF0703 : BitVec 64) 100 = 0x0000008000800000 ∧
  geLiteral Config.word64lane8 (0xFF030201FF00FEFF : BitVec 64) 255 = 0x8080808080808000 ∧
  geWord 8 (0xFF030201FF00FEFF : BitVec 64) 255 = 0x8000000080000080

/-- R174: with lanes wider than one bit and every lane's MSB off in both operands, GEMSBOFF completes and sets exactly the
MSB of the lanes where a is at least b; F7 where an MSB is on, X5 where N = 1. -/
def Obligations.GemsboffComparesLanes : Prop :=
  ∀ s : State,
    let off := s.a &&& msbs s.cfg = 0 ∧ s.b &&& msbs s.cfg = 0
    Encodes 0x14 .gemsboff ∧ resultKind .gemsboff = .bool ∧
    (1 < s.cfg.N → off → ∃ v, Answers .gemsboff s v ∧
      ∀ k < s.cfg.L, laneNat s.cfg.N v k =
        if laneNat s.cfg.N s.b k ≤ laneNat s.cfg.N s.a k then 2 ^ (s.cfg.N - 1) else 0) ∧
    (1 < s.cfg.N → ¬off → exec .gemsboff s = .fault (.msbNotOff s.a.toNat s.b.toNat)) ∧
    (s.cfg.N = 1 → exec .gemsboff s = .refused .degenerateLane)

/-- R175: lane k of the answer of GE depends on lane k of `a` and on the constant only, and lane k of the answer of GEMSBOFF
on lane k of `a` and of `b` only. -/
def Obligations.ComparisonLanesIndependent : Prop :=
  ∀ (s : State) (a b v w : BitVec s.cfg.W) (k : Nat), k < s.cfg.L → laneNat s.cfg.N a k = laneNat s.cfg.N s.a k →
    (Answers .ge s v → Answers .ge { s with a := a } w → laneNat s.cfg.N v k = laneNat s.cfg.N w k) ∧
    (laneNat s.cfg.N b k = laneNat s.cfg.N s.b k → Answers .gemsboff s v →
      Answers .gemsboff { s with a := a, b := b } w → laneNat s.cfg.N v k = laneNat s.cfg.N w k)

/-! ### Boolean Lane Word -/

/-- R190: BNOT completes where lanes are wider than one bit, flips every lane's truth bit and passes every other bit; X5
where N = 1. -/
def Obligations.BnotFlipsTruthBits : Prop :=
  ∀ s : State,
    Encodes 0x15 .bnot ∧ resultKind .bnot = .bool ∧
    (1 < s.cfg.N → ∃ v, Answers .bnot s v ∧
      (∀ n < s.cfg.W, v.getLsbD n = (s.a.getLsbD n ^^ decide (n % s.cfg.N = s.cfg.N - 1))) ∧
      ∀ k < s.cfg.L, laneTrue s.cfg.N v k = !laneTrue s.cfg.N s.a k) ∧
    (s.cfg.N = 1 → exec .bnot s = .refused .degenerateLane)

/-- R194: negating twice gives every word back bit for bit, and EQ says so. -/
def Obligations.DoubleNegationIsIdentity : Prop :=
  ∀ s : State, 1 < s.cfg.N →
    ∃ v w, Answers .bnot s v ∧ Answers .bnot { s with a := v } w ∧ w = s.a ∧
      Answers .eq { s with a := w, b := s.a } 1

/-- R191: BCLEAR clears the truth bit of lane i alone where i is below L; of a Boolean Lane Word it answers what CLEAR
answers; F1 where i is not below L, X5 where N = 1. For words that are no Boolean Lane Word the answer is the model's (log
entry 9, DEDUCED): R232 has the rule hold for operands of kind Bool. -/
def Obligations.BclearClearsOneTruthBit : Prop :=
  ∀ (i : SmallField) (s : State),
    Encodes (0x16 + 32 * i.toNat) (.bclear i) ∧ resultKind (.bclear i) = .bool ∧
    (1 < s.cfg.N → i.toNat < s.cfg.L → ∃ v, Answers (.bclear i) s v ∧
      (∀ n < s.cfg.W, v.getLsbD n = (s.a.getLsbD n && decide (n ≠ i.toNat * s.cfg.N + s.cfg.N - 1))) ∧
      (isBoolWord s.cfg s.a = true → Answers (.clear i) s v)) ∧
    (1 < s.cfg.N → s.cfg.L ≤ i.toNat → exec (.bclear i) s = .fault (.laneIndexOutOfRange i.toNat)) ∧
    (s.cfg.N = 1 → exec (.bclear i) s = .refused .degenerateLane)

/-- R192: BEST answers what TOP answers, which for a Boolean Lane Word is the highest true lane; F3 where the word is 0, X5
where N = 1. For words that are no Boolean Lane Word the answer is the model's (log entry 9, DEDUCED; R232). -/
def Obligations.BestAnswersHighestTrueLane : Prop :=
  ∀ s : State,
    Encodes 0x17 .best ∧ resultKind .best = .word ∧
    (1 < s.cfg.N → s.a ≠ 0 → ∃ v, Answers .best s v ∧ Answers .top s v ∧
      (isBoolWord s.cfg s.a = true → v.toNat < s.cfg.L ∧ laneTrue s.cfg.N s.a v.toNat = true ∧
        ∀ m, v.toNat < m → laneTrue s.cfg.N s.a m = false)) ∧
    (1 < s.cfg.N → s.a = 0 → exec .best s = .fault .zeroOperand) ∧
    (s.cfg.N = 1 → exec .best s = .refused .degenerateLane)

/-- R193: BANY answers 1 where the word is not 0 and 0 where it is, which for a Boolean Lane Word says whether any lane is
true; X5 where N = 1. For words that are no Boolean Lane Word the answer is the model's (log entry 9, DEDUCED; R232). -/
def Obligations.BanySaysWhetherAnyLaneIsTrue : Prop :=
  ∀ s : State,
    Encodes 0x18 .bany ∧ resultKind .bany = .word ∧
    (1 < s.cfg.N → ∃ v, Answers .bany s v ∧ v.toNat = (if s.a.toNat = 0 then 0 else 1) ∧
      (isBoolWord s.cfg s.a = true → (v.toNat = 1 ↔ ∃ k < s.cfg.L, laneTrue s.cfg.N s.a k = true))) ∧
    (s.cfg.N = 1 → exec .bany s = .refused .degenerateLane)

/-- R195: the four producers of a Boolean Lane Word keep its invariant: GE and GEMSBOFF from any operands, BNOT and BCLEAR
from a Boolean Lane Word (the spec marks this as derived from the four rules). -/
def Obligations.ProducersKeepBoolInvariant : Prop :=
  ∀ (instr : Instr) (s : State) (v : BitVec s.cfg.W), resultKind instr = .bool →
    (aKind instr = some .bool → isBoolWord s.cfg s.a = true) → Answers instr s v → isBoolWord s.cfg v = true

/-! ### Programs and runs -/

/-- R24, R25, R195: every step keeps it true that each name of kind Bool satisfies the invariant `x & ~MSBS = 0`. -/
def Obligations.StepKeepsBoolInvariant : Prop := ∀ s t : State, s.BoolsKept → step s = .next t → t.BoolsKept

/-- The reset state meets the three conditions the invariants speak of (its instance and lines: log entries 1 and 2). -/
def Obligations.ResetMeetsInvariants : Prop := State.reset.BoolsKept ∧ State.reset.LinesLegal ∧ State.reset.Accepted

/-- R212, R213, R63: once a step has been taken from legal lines, no later one is refused: what an accepted program still
holds stays accepted, and the lines stay legal. (That a step with no statement left answers the lines again is the
model's, log entry 11.) -/
def Obligations.AcceptedRunNeverRefused : Prop :=
  ∀ s t : State, s.LinesLegal → step s = .next t → t.LinesLegal ∧ ∀ x, step t ≠ .refused x

/-- R62, R212 X6: a program in which some statement, at whatever position, gives a name of kind Word in the scope the earlier
statements leave, or a literal, to an operation that takes a Bool is refused before any of it runs. That X6 is the reason
given where the statement's operand b or its name, or a later statement, is bad too rests on the order of the checks, the
model's choice (log entry 10), and that the whole of what is left is checked before each statement is log entry 16. -/
def Obligations.KindMismatchRefused : Prop :=
  ∀ (s : State) (before rest : List Stmt) (dst : Name) (cw : ControlWord) (x : Source) (y : Option Source)
    (instr : Instr) (scope : Scope),
    s.recorded = none → duplicateName? s.scope = none → s.pending = before ++ .transact dst cw (some x) y :: rest →
    programScope s.cfg s.scope before = .ok scope →
    requestInstr s.cfg cw = .ok instr → aKind instr = some .bool →
    ((∃ n, x = .name n ∧ scope.kindOf n = some .word) ∨ ∃ v, x = .lit v ∧ v < 2 ^ s.cfg.W) →
    step s = .refused .kindMismatch ∧ runProgram s = .error .kindMismatch

/-- R63: an accepted program runs to an end: either every statement was performed and every name it defines is bound, or
a fault is recorded; the instance and the names bound before stay. -/
def Obligations.AcceptedProgramEnds : Prop :=
  ∀ s : State, s.Accepted → ∃ t, runProgram s = .ok t ∧ t.cfg = s.cfg ∧
    (t.recorded = none → t.pending = [] ∧ ∀ st ∈ s.pending, (t.valueOf st.dst).isSome) ∧
    ∀ n kv, s.valueOf n = some kv → t.valueOf n = some kv

/-- R63, R45: any order of a program's statements that is itself well-formed gives the same bindings, where one of the
orders runs without a fault. -/
def Obligations.StatementOrderIrrelevant : Prop :=
  ∀ (s t : State) (p q : List Stmt), p.Perm q → s.recorded = none →
    ({ s with pending := q } : State).programRefusal = none →
    runProgram { s with pending := p } = .ok t → t.recorded = none →
    ∃ u, runProgram { s with pending := q } = .ok u ∧ u.recorded = none ∧ ∀ n, u.valueOf n = t.valueOf n

/-- R61: every pseudo-operation stands for what its expansion stands for: ONES and MSBS for the PATTERN of width N of 1 and of
2^(N-1), whose transactions complete with the two mask constants, POPCOUNT for the POPCNT of level 5; WRAP and RAW perform no
transaction and name the same bits with kind Word. That performing these two is a step of its own in which no port changes
is log entry 12. -/
def Obligations.PseudoOperationsExpand : Prop :=
  ∀ (s : State) (dst : Name) (x : Source),
    let written (m : Mnemonic) (a : Option Source) := assemble s.cfg { dst := dst, mnemonic := m, a := a }
    (∃ i : SmallField, 2 ^ i.toNat = s.cfg.N ∧ 2 ^ (s.cfg.N - 1) < 2 ^ s.cfg.W ∧
      written .ONES none = .ok (.transact dst (encode (.pattern i)) (some (.lit 1)) none) ∧
      written .MSBS none = .ok (.transact dst (encode (.pattern i)) (some (.lit (2 ^ (s.cfg.N - 1)))) none) ∧
      Answers (.pattern i) { s with a := 1 } (ones s.cfg) ∧
      Answers (.pattern i) { s with a := BitVec.ofNat s.cfg.W (2 ^ (s.cfg.N - 1)) } (msbs s.cfg)) ∧
    written .ONES none =
      assemble s.cfg { dst := dst, mnemonic := .PATTERN, a := some (.lit 1), width := some s.cfg.N } ∧
    written .MSBS none =
      assemble s.cfg { dst := dst, mnemonic := .PATTERN, a := some (.lit (2 ^ (s.cfg.N - 1))), width := some s.cfg.N } ∧
    written .POPCOUNT (some x) = assemble s.cfg { dst := dst, mnemonic := .POPCNT, a := some x, level := some 5 } ∧
    written .POPCOUNT (some x) = .ok (.transact dst (encode (.popcnt 5)) (some x) none) ∧
    written .WRAP (some x) = .ok (.wrap dst x) ∧ written .RAW (some x) = .ok (.raw dst x) ∧
    (∀ v, s.sourceValue x = .ok v →
      perform s (.wrap dst x) = .next { s with bound := { name := dst, kind := .word, value := v } :: s.bound } ∧
      perform s (.raw dst x) = .next { s with bound := { name := dst, kind := .word, value := v } :: s.bound })

/-- R82, with R80's bound on the value: PAT has a value for exactly the widths P that are powers of two up to W and the values
below 2^P, so there is no truncated last copy and no fallback; W/P is then a power of two; the widths PATTERN is refused by X3
for are those for which PAT has no value at all; the lane width of every instance is supported. -/
def Obligations.PatternWidthsSupported : Prop :=
  (∀ (c : Config) (p : BitVec c.W) (P : Nat),
    ((∃ v, pat? p P = some v) ↔ (∃ i, P = 2 ^ i) ∧ P ≤ c.W ∧ p.toNat < 2 ^ P) ∧
    ∀ v, pat? p P = some v → ∃ m, c.W = P * 2 ^ m) ∧
  (∀ (i : SmallField) (s : State), (∀ p : BitVec s.cfg.W, pat? p (2 ^ i.toNat) = none) ↔
    exec (.pattern i) s = .refused .patternWidthUnsupported) ∧
  (∀ (c : Config) (p : BitVec c.W), p.toNat < 2 ^ c.N → ∃ v, pat? p c.N = some v)
end

