-- ==== Sys2Proof/Laws/Decode.lean ====
section
/-! SUPPORT. Laws/Decode.lean: the three fields of a packed control word (R51). -/

namespace Sys2Proof

@[simp] theorem opcField_packFields (o : OpCode) (i j : SmallField) : opcField (packFields o i j) = o := by
  apply BitVec.eq_of_getLsbD_eq
  intro n hn
  simp only [opcField, packFields, BitVec.getLsbD_extractLsb', BitVec.getLsbD_append]
  simp [hn, show n < 11 by omega]

@[simp] theorem iField_packFields (o : OpCode) (i j : SmallField) : iField (packFields o i j) = i := by
  apply BitVec.eq_of_getLsbD_eq
  intro n hn
  simp only [iField, packFields, BitVec.getLsbD_extractLsb', BitVec.getLsbD_append]
  simp [hn, show 5 + n < 11 by omega]

@[simp] theorem jField_packFields (o : OpCode) (i j : SmallField) : jField (packFields o i j) = j := by
  apply BitVec.eq_of_getLsbD_eq
  intro n hn
  simp only [jField, packFields, BitVec.getLsbD_extractLsb', BitVec.getLsbD_append]
  simp [hn]

end Sys2Proof
end

