-- ==== Sys2Proof/Laws/State.lean ====
section
/-! SUPPORT. Laws/State.lean: one lemma for each field under each update of the state. -/

namespace Sys2Proof.Machine

section setR
variable (s : State) (v w : BitVec s.cfg.W)

@[simp] theorem State.setR_cfg : (s.setR v).cfg = s.cfg := rfl
@[simp] theorem State.setR_cw : (s.setR v).cw = s.cw := rfl
@[simp] theorem State.setR_a : (s.setR v).a = s.a := rfl
@[simp] theorem State.setR_b : (s.setR v).b = s.b := rfl
@[simp] theorem State.setR_r : (s.setR v).r = v := rfl
@[simp] theorem State.setR_pending : (s.setR v).pending = s.pending := rfl
@[simp] theorem State.setR_bound : (s.setR v).bound = s.bound := rfl
@[simp] theorem State.setR_recorded : (s.setR v).recorded = s.recorded := rfl
@[simp] theorem State.setR_setR : (s.setR v).setR w = s.setR w := rfl
@[simp] theorem State.setR_scope : (s.setR v).scope = s.scope := rfl

end setR

section define
variable (s : State) (dst : Name) (k : Kind) (v : BitVec s.cfg.W)

@[simp] theorem State.define_cfg : (s.define dst k v).cfg = s.cfg := rfl
@[simp] theorem State.define_cw : (s.define dst k v).cw = s.cw := rfl
@[simp] theorem State.define_a : (s.define dst k v).a = s.a := rfl
@[simp] theorem State.define_b : (s.define dst k v).b = s.b := rfl
@[simp] theorem State.define_r : (s.define dst k v).r = s.r := rfl
@[simp] theorem State.define_pending : (s.define dst k v).pending = s.pending := rfl
@[simp] theorem State.define_bound : (s.define dst k v).bound = ⟨dst, k, v⟩ :: s.bound := rfl
@[simp] theorem State.define_recorded : (s.define dst k v).recorded = s.recorded := rfl
@[simp] theorem State.define_scope : (s.define dst k v).scope = (dst, k) :: s.scope := rfl

end define

section drive
variable (s : State) (cw : ControlWord) (x y : BitVec s.cfg.W)

@[simp] theorem State.drive_cfg : (s.drive cw x y).cfg = s.cfg := rfl
@[simp] theorem State.drive_cw : (s.drive cw x y).cw = cw := rfl
@[simp] theorem State.drive_a : (s.drive cw x y).a = x := rfl
@[simp] theorem State.drive_b : (s.drive cw x y).b = y := rfl
@[simp] theorem State.drive_r : (s.drive cw x y).r = s.r := rfl
@[simp] theorem State.drive_pending : (s.drive cw x y).pending = s.pending := rfl
@[simp] theorem State.drive_bound : (s.drive cw x y).bound = s.bound := rfl
@[simp] theorem State.drive_recorded : (s.drive cw x y).recorded = s.recorded := rfl
@[simp] theorem State.drive_scope : (s.drive cw x y).scope = s.scope := rfl

end drive

section withFetchWord
variable (s : State) (nbits w : Nat)

@[simp] theorem State.withFetchWord_cfg : (s.withFetchWord nbits w).cfg = s.cfg := rfl
@[simp] theorem State.withFetchWord_cw : (s.withFetchWord nbits w).cw = BitVec.ofNat 17 (w % 2 ^ nbits) := rfl
@[simp] theorem State.withFetchWord_a : (s.withFetchWord nbits w).a = s.a := rfl
@[simp] theorem State.withFetchWord_b : (s.withFetchWord nbits w).b = s.b := rfl
@[simp] theorem State.withFetchWord_r : (s.withFetchWord nbits w).r = s.r := rfl
@[simp] theorem State.withFetchWord_pending : (s.withFetchWord nbits w).pending = [] := rfl
@[simp] theorem State.withFetchWord_bound : (s.withFetchWord nbits w).bound = s.bound := rfl
@[simp] theorem State.withFetchWord_recorded : (s.withFetchWord nbits w).recorded = none := rfl

end withFetchWord

section withHistory
variable (s : State) (r : BitVec s.cfg.W) (p : List Stmt) (e : List (Binding s.cfg.W)) (f : Option Fault)

@[simp] theorem State.withHistory_cfg : (s.withHistory r p e f).cfg = s.cfg := rfl
@[simp] theorem State.withHistory_cw : (s.withHistory r p e f).cw = s.cw := rfl
@[simp] theorem State.withHistory_a : (s.withHistory r p e f).a = s.a := rfl
@[simp] theorem State.withHistory_b : (s.withHistory r p e f).b = s.b := rfl
@[simp] theorem State.withHistory_r : (s.withHistory r p e f).r = r := rfl
@[simp] theorem State.withHistory_pending : (s.withHistory r p e f).pending = p := rfl
@[simp] theorem State.withHistory_bound : (s.withHistory r p e f).bound = e := rfl
@[simp] theorem State.withHistory_recorded : (s.withHistory r p e f).recorded = f := rfl

end withHistory

end Sys2Proof.Machine
end

