-- ==== Sys2Proof/Laws/Ops.lean ====
section
/-! SUPPORT. Laws/Ops.lean: what each shared operation can do, said once; proofs cite these lemmas and unfold none of the
operations. -/

namespace Sys2Proof.Machine

@[simp] theorem deliver_eq (s : State) (v : BitVec s.cfg.W) : deliver s v = .next (s.setR v) := rfl

theorem deliver_ne_refused (s : State) (v : BitVec s.cfg.W) (x : Refusal) : deliver s v ≠ .refused x := nofun

section require
variable {c : Prop} [Decidable c] {f g : Fault} {k : Ending}

@[simp] theorem require_of_pos (h : c) : require c f k = k := if_pos h

@[simp] theorem require_of_neg (h : ¬c) : require c f k = .fault f := if_neg h

theorem require_eq_next {t : State} : require c f k = .next t ↔ c ∧ k = .next t := by
  by_cases h : c <;> simp [h]

theorem require_eq_refused {x : Refusal} : require c f k = .refused x ↔ c ∧ k = .refused x := by
  by_cases h : c <;> simp [h]

theorem require_eq_fault : require c f k = .fault g ↔ (¬c ∧ f = g) ∨ (c ∧ k = .fault g) := by
  by_cases h : c <;> simp [h]

end require

section requireSome
variable {α : Type} {v : Option α} {f : Fault} {k : α → Ending}

@[simp] theorem requireSome_none : requireSome none f k = .fault f := rfl

@[simp] theorem requireSome_some (x : α) : requireSome (some x) f k = k x := rfl

theorem requireSome_eq_next {t : State} : requireSome v f k = .next t ↔ ∃ x, v = some x ∧ k x = .next t := by
  cases v <;> simp

theorem requireSome_eq_refused {x : Refusal} : requireSome v f k = .refused x ↔ ∃ y, v = some y ∧ k y = .refused x := by
  cases v <;> simp

end requireSome

theorem requireLane_eq_next {i : SmallField} {s t : State} {k : Ending} :
    requireLane i s k = .next t ↔ i.toNat < s.cfg.L ∧ k = .next t := require_eq_next

theorem requireLane_eq_refused {i : SmallField} {s : State} {k : Ending} {x : Refusal} :
    requireLane i s k = .refused x ↔ i.toNat < s.cfg.L ∧ k = .refused x := require_eq_refused

theorem requireLane_of_lt {i : SmallField} {s : State} {k : Ending} (h : i.toNat < s.cfg.L) : requireLane i s k = k :=
  require_of_pos h

theorem requireLane_of_ge {i : SmallField} {s : State} {k : Ending} (h : s.cfg.L ≤ i.toNat) :
    requireLane i s k = .fault (.laneIndexOutOfRange i.toNat) := require_of_neg (Nat.not_lt.mpr h)

section whenLegal
variable {instr : Instr} {s : State} {k : State → Ending}

theorem whenLegal_of_legal (h : legality s.cfg instr = none) : whenLegal instr s k = k s := by simp [whenLegal, h]

theorem whenLegal_of_illegal {x : Refusal} (h : legality s.cfg instr = some x) : whenLegal instr s k = .refused x := by
  simp [whenLegal, h]

theorem whenLegal_eq_next {t : State} : whenLegal instr s k = .next t ↔ legality s.cfg instr = none ∧ k s = .next t := by
  cases h : legality s.cfg instr <;> simp [whenLegal, h]

theorem whenLegal_eq_refused {x : Refusal} : whenLegal instr s k = .refused x ↔
    legality s.cfg instr = some x ∨ (legality s.cfg instr = none ∧ k s = .refused x) := by
  cases h : legality s.cfg instr <;> simp [whenLegal, h]

end whenLegal

/-- The scope two lists of statements leave, one after the other (R62, R63). -/
theorem programScope_append (c : Config) (q : List Stmt) : ∀ (scope : Scope) (p : List Stmt),
    programScope c scope (p ++ q) = (programScope c scope p).bind fun scope' => programScope c scope' q
  | _, [] => rfl
  | scope, st :: p => by
    simp only [List.cons_append, programScope]
    cases checkStmt c scope st with
    | error r => rfl
    | ok e => exact programScope_append c q (e :: scope) p

theorem checkProgram_eq_none {c : Config} {scope : Scope} {p : List Stmt} :
    checkProgram c scope p = none ↔ ∃ scope', programScope c scope p = .ok scope' := by
  unfold checkProgram
  cases programScope c scope p <;> simp

theorem checkProgram_eq_some {c : Config} {scope : Scope} {p : List Stmt} {x : Refusal} :
    checkProgram c scope p = some x ↔ programScope c scope p = .error x := by
  unfold checkProgram
  cases programScope c scope p <;> simp

/-- The level a field names is there exactly where the instruction is legal (R52, R55). -/
theorem popLevel?_eq_some {level : SmallField} {lvl : PopLevel} :
    popLevel? level = some lvl ↔ level.toNat = lvl.val := by
  unfold popLevel?
  split <;> simp [Fin.ext_iff]
  omega

theorem popLevel?_eq_none {level : SmallField} : popLevel? level = none ↔ 5 < level.toNat := by
  unfold popLevel?
  split <;> simp <;> omega

/-- A request is legal exactly when its word decodes and the instance admits the instruction. -/
theorem requestInstr_eq_ok {c : Config} {cw : ControlWord} {instr : Instr} :
    requestInstr c cw = .ok instr ↔ decode cw = .ok instr ∧ legality c instr = none := by
  unfold requestInstr
  cases hd : decode cw with
  | error e => simp
  | ok i =>
    cases hl : legality c i with
    | none =>
      simp only [hl, Except.ok.injEq]
      exact ⟨fun h => ⟨h, h ▸ hl⟩, And.left⟩
    | some x =>
      simp only [hl, Except.ok.injEq, reduceCtorEq, false_iff, not_and]
      rintro rfl h
      simp [hl] at h

@[simp] theorem andThen_next (t : State) (k : State → Ending) : andThen (.next t) k = k t := rfl

theorem andThen_eq_next {e : Ending} {k : State → Ending} {t : State} :
    andThen e k = .next t ↔ ∃ u, e = .next u ∧ k u = .next t := by
  cases e <;> simp [andThen]

section wire
variable {src dst t : State} {k : BitVec dst.cfg.W → State} {f : Fault} {x : Refusal}

/-- Everything a wiring can be: it puts the result on the line only between instances of one (W, N) whose source has no
fault recorded, ends in the fault of a source that has one, and is refused by X7 between others (R211, R212, R213). -/
theorem wire_eq_next : wire src dst k = .next t ↔
    src.recorded = none ∧ ∃ h : src.cfg.W = dst.cfg.W ∧ src.cfg.N = dst.cfg.N, k (src.r.cast h.1) = t := by
  unfold wire
  split <;> rename_i h
  · cases src.recorded <;> simp [h]
  · simp [h]

theorem wire_eq_fault : wire src dst k = .fault f ↔
    (src.cfg.W = dst.cfg.W ∧ src.cfg.N = dst.cfg.N) ∧ src.recorded = some f := by
  unfold wire
  split <;> rename_i h
  · cases src.recorded <;> simp [h]
  · simp [h]

theorem wire_eq_refused : wire src dst k = .refused x ↔
    ¬(src.cfg.W = dst.cfg.W ∧ src.cfg.N = dst.cfg.N) ∧ .badConfiguration = x := by
  unfold wire
  split <;> rename_i h
  · cases src.recorded <;> simp [h]
  · simp [h]

end wire

/-- A transaction that ends in a next state is the decoded instruction's (R50). -/
theorem transact_eq_next {cw : ControlWord} {s t : State} :
    transact cw s = .next t ↔ ∃ instr, decode cw = .ok instr ∧ exec instr s = .next t := by
  unfold transact
  cases decode cw <;> simp

/-- Everything a step that ends in a next state can have been: the lines' transaction where no statement is left, else the
performing of the next statement of a program that passed its check. -/
theorem step_eq_next {s t : State} (h : step s = .next t) : s.recorded = none ∧
    ((s.pending = [] ∧ issue s = .next t) ∨
      ∃ st rest, s.pending = st :: rest ∧ s.programRefusal = none ∧ perform { s with pending := rest } st = .next t) := by
  unfold step at h
  cases hr : s.recorded with
  | some f => simp [hr] at h
  | none =>
    refine ⟨rfl, ?_⟩
    simp only [hr, nextStatement] at h
    cases hp : s.pending with
    | nil => exact .inl ⟨rfl, by simpa [hp] using h⟩
    | cons st rest =>
      cases hc : s.programRefusal with
      | some x => simp [hp, hc] at h
      | none => exact .inr ⟨st, rest, rfl, rfl, by simpa [hp, hc] using h⟩

/-- Everything the performing of a transaction that ends in a next state can have been. -/
theorem perform_transact_eq_next {s t : State} {dst : Name} {cw : ControlWord} {x y : Option Source}
    (h : perform s (.transact dst cw x y) = .next t) : ∃ va vb u, s.lineValue s.a x = .ok va ∧
      s.lineValue s.b y = .ok vb ∧ transact cw (s.drive cw va vb) = .next u ∧ t = u.define dst (resultKindOf cw) u.r := by
  unfold perform at h
  cases hx : s.lineValue s.a x with
  | error r => simp [hx] at h
  | ok va =>
    cases hy : s.lineValue s.b y with
    | error r => simp [hx, hy] at h
    | ok vb =>
      simp only [hx, hy] at h
      obtain ⟨u, hu, ht⟩ := andThen_eq_next.mp h
      exact ⟨va, vb, u, rfl, rfl, hu, by simpa using ht.symm⟩

end Sys2Proof.Machine
end

