-- ==== Sys2Proof/Laws/PerInstr.lean ====
section
/-! SUPPORT. Laws/PerInstr.lean: facts of every instruction as syntax, one lemma for each constructor.
Fields: the control word of the instruction carries its operation code and its fields in their places, and 0 in the fields
its format does not use (R51). -/

namespace Sys2Proof.Laws.Fields

/-- The three fields of the instruction's control word (R51, R54). -/
def Statement (instr : Instr) : Prop :=
  opcField (encode instr) = instr.opcode ∧ iField (encode instr) = instr.iValue ∧ jField (encode instr) = instr.jValue

theorem of_packFields (instr : Instr) : Statement instr :=
  ⟨opcField_packFields _ _ _, iField_packFields _ _ _, jField_packFields _ _ _⟩

theorem zero : Statement .zero := of_packFields _
theorem pattern (log2P : SmallField) : Statement (.pattern log2P) := of_packFields _
theorem topclr : Statement .topclr := of_packFields _
theorem isolsb : Statement .isolsb := of_packFields _
theorem clrlsb : Statement .clrlsb := of_packFields _
theorem masklow : Statement .masklow := of_packFields _
theorem isolsbits : Statement .isolsbits := of_packFields _
theorem clrlsbits : Statement .clrlsbits := of_packFields _
theorem atLane (lane : SmallField) : Statement (.atLane lane) := of_packFields _
theorem clear (lane : SmallField) : Statement (.clear lane) := of_packFields _
theorem set (lane bit : SmallField) : Statement (.set lane bit) := of_packFields _
theorem top : Statement .top := of_packFields _
theorem lsbidx : Statement .lsbidx := of_packFields _
theorem or : Statement .or := of_packFields _
theorem and : Statement .and := of_packFields _
theorem xor : Statement .xor := of_packFields _
theorem broadcast : Statement .broadcast := of_packFields _
theorem eq : Statement .eq := of_packFields _
theorem popcnt (level : SmallField) : Statement (.popcnt level) := of_packFields _
theorem ge : Statement .ge := of_packFields _
theorem gemsboff : Statement .gemsboff := of_packFields _
theorem bnot : Statement .bnot := of_packFields _
theorem bclear (lane : SmallField) : Statement (.bclear lane) := of_packFields _
theorem best : Statement .best := of_packFields _
theorem bany : Statement .bany := of_packFields _

end Sys2Proof.Laws.Fields
end

