-- ==== Sys2Proof/Laws/Words.lean ====
section
/-! SUPPORT. Laws/Words.lean: the primitives of Machine/Ops.lean bit by bit, and what the admitted parameters say of an
instance. -/

namespace Sys2Proof

/-! ### Instances -/

theorem Config.lane_pos (c : Config) : 0 < c.N := c.admitted.2.1.1

theorem Config.lane_dvd (c : Config) : c.N ∣ c.W := Nat.dvd_of_mod_eq_zero c.admitted.2.1.2

theorem Config.lanes_mul_width (c : Config) : c.L * c.N = c.W := Nat.div_mul_cancel c.lane_dvd

theorem Config.word_pos (c : Config) : 0 < c.W := by rcases c.admitted.1 with h | h | h | h <;> omega

theorem Config.lane_le_word (c : Config) : c.N ≤ c.W := Nat.le_of_dvd c.word_pos c.lane_dvd

theorem Config.lanes_pos (c : Config) : 0 < c.L := Nat.div_pos c.lane_le_word c.lane_pos

namespace Machine

/-! ### Words -/

theorem getLsbD_lowMask (W n b : Nat) : (lowMask W n).getLsbD b = (decide (b < W) && decide (b < n)) := by
  simp [lowMask, BitVec.getLsbD_ofNat, Nat.testBit_two_pow_sub_one]

theorem getLsbD_oneBit (W n b : Nat) : (oneBit W n).getLsbD b = (decide (b < W) && decide (n = b)) := by
  simp only [oneBit, BitVec.getLsbD_twoPow]
  by_cases h : n = b
  · subst h; simp
  · simp [h]

theorem getLsbD_laneMask (W N k b : Nat) :
    (laneMask W N k).getLsbD b = (decide (b < W) && decide (k * N ≤ b) && decide (b < k * N + N)) := by
  simp only [laneMask, BitVec.getLsbD_shiftLeft, getLsbD_lowMask]
  by_cases h1 : b < W
  · by_cases h2 : k * N ≤ b
    · have : (b - k * N < N) = (b < k * N + N) := propext (by omega)
      simp [h1, h2, this, Nat.not_lt.mpr h2, show b - k * N < W by omega]
    · simp [h2, Nat.lt_of_not_le h2]
  · simp [h1]

theorem getLsbD_lane {W : Nat} (N : Nat) (v : BitVec W) (k b : Nat) :
    (lane N v k).getLsbD b = (decide (b < N) && v.getLsbD (k * N + b)) := by
  simp only [lane, BitVec.getLsbD_and, BitVec.getLsbD_ushiftRight, getLsbD_lowMask]
  by_cases hb : b < W
  · simp [hb, Bool.and_comm]
  · have : v.getLsbD (k * N + b) = false := BitVec.getLsbD_of_ge _ _ (by omega)
    simp [this]

/-- The lane of the word operations is the lane of R23's naturals. -/
theorem lane_toNat {W : Nat} (N : Nat) (v : BitVec W) (k : Nat) : (lane N v k).toNat = laneNat N v k := by
  apply Nat.eq_of_testBit_eq
  intro b
  rw [BitVec.testBit_toNat, getLsbD_lane, laneNat, Nat.testBit_mod_two_pow, Nat.testBit_div_two_pow,
    BitVec.testBit_toNat, Nat.add_comm b]

/-- A lane below 2^N, bit by bit (R23). -/
theorem testBit_laneNat {W : Nat} (N : Nat) (v : BitVec W) (k b : Nat) :
    (laneNat N v k).testBit b = (decide (b < N) && v.getLsbD (k * N + b)) := by
  rw [← lane_toNat, BitVec.testBit_toNat, getLsbD_lane]

/-! ### Doubling (R80) -/

theorem patLoop_getLsbD {W : Nat} (P : Nat) (hP : 0 < P) (p : BitVec W) :
    ∀ (fuel k : Nat) (v : BitVec W), P * 2 ^ k ≤ W → (∃ m, W = P * 2 ^ k * 2 ^ m ∧ m ≤ fuel) →
      (∀ n, v.getLsbD n = (decide (n < P * 2 ^ k) && p.getLsbD (n % P))) →
      ∀ n, (patLoop fuel v (P * 2 ^ k)).getLsbD n = (decide (n < W) && p.getLsbD (n % P))
  | 0, k, v, _, ⟨m, hW, hm⟩, hv, n => by
    have : W = P * 2 ^ k := by simpa [Nat.le_zero.mp hm] using hW
    rw [patLoop, hv, ← this]
  | fuel + 1, k, v, hle, ⟨m, hW, hm⟩, hv, n => by
    rw [patLoop]
    have hpos : 0 < P * 2 ^ k := Nat.mul_pos hP (by positivity)
    split
    case isFalse h =>
      have : W = P * 2 ^ k := by omega
      rw [hv, ← this]
    case isTrue h =>
      obtain ⟨m, rfl⟩ : ∃ q, m = q + 1 := by
        cases m with
        | zero => simp at hW; omega
        | succ q => exact ⟨q, rfl⟩
      have hnext : 2 * (P * 2 ^ k) = P * 2 ^ (k + 1) := by ring
      have hW' : W = P * 2 ^ (k + 1) * 2 ^ m := by rw [hW]; ring
      have hle' : P * 2 ^ (k + 1) ≤ W := by
        rw [hW']; exact Nat.le_mul_of_pos_right _ (by positivity)
      rw [hnext]
      refine patLoop_getLsbD P hP p fuel (k + 1) _ hle' ⟨m, hW', by omega⟩ (fun q => ?_) n
      rw [BitVec.getLsbD_or, BitVec.getLsbD_shiftLeft, hv, hv, ← hnext]
      by_cases h1 : q < P * 2 ^ k
      · have : q < 2 * (P * 2 ^ k) := by omega
        simp [h1, this]
      · have hmod : (q - P * 2 ^ k) % P = q % P := by
          conv_rhs => rw [show q = (q - P * 2 ^ k) + P * 2 ^ k by omega]
          rw [Nat.add_mul_mod_self_left]
        by_cases h2 : q < 2 * (P * 2 ^ k)
        · have : q - P * 2 ^ k < P * 2 ^ k := by omega
          have hq : q < W := by omega
          simp only [h1, h2, this, hq, hmod, decide_true, decide_false, Bool.true_and, Bool.false_and, Bool.false_or,
            Bool.not_false]
        · have : ¬ q - P * 2 ^ k < P * 2 ^ k := by omega
          simp only [h1, h2, this, decide_false, Bool.false_and, Bool.and_false, Bool.or_false]

/-- Where the pattern width is W halved some number of times and the pattern fits it, bit n of what the loop ends with is
bit n mod P of the pattern. -/
theorem getLsbD_patLoop {W P m : Nat} (hW : W = P * 2 ^ m) (hP : 0 < P) (p : BitVec W) (hp : p.toNat < 2 ^ P) (n : Nat) :
    (patLoop W p P).getLsbD n = (decide (n < W) && p.getLsbD (n % P)) := by
  have hm : m ≤ W := by
    have : m < 2 ^ m := Nat.lt_two_pow_self
    have : 2 ^ m ≤ W := by rw [hW]; exact Nat.le_mul_of_pos_left _ hP
    omega
  have hle : P ≤ W := by rw [hW]; exact Nat.le_mul_of_pos_right _ (by positivity)
  have := patLoop_getLsbD P hP p W 0 p (by simpa using hle) ⟨m, by simpa using hW, hm⟩ (fun q => by
    by_cases hq : q < P
    · simp [hq, Nat.mod_eq_of_lt hq]
    · have : p.getLsbD q = false := by
        rw [BitVec.getLsbD, Nat.testBit_lt_two_pow]
        exact lt_of_lt_of_le hp (Nat.pow_le_pow_right (by omega) (by omega))
      simp [hq, this]) n
  simpa using this

/-- Everything `PAT(p, P)` can be: it is defined for a supported width and a value of P bits, and bit n of it is bit n mod P
of the pattern. -/
theorem pat?_eq_some {W P : Nat} {p v : BitVec W} : pat? p P = some v ↔
    PatternWidth W P ∧ p.toNat < 2 ^ P ∧ ∀ n, v.getLsbD n = (decide (n < W) && p.getLsbD (n % P)) := by
  unfold pat?
  by_cases h : PatternWidth W P ∧ p.toNat < 2 ^ P
  · obtain ⟨⟨hi, hm⟩, hp⟩ := id h
    have bits := getLsbD_patLoop hm (hi ▸ by positivity) p hp
    rw [if_pos h, Option.some.injEq]
    refine ⟨fun e => ⟨h.1, hp, fun n => e ▸ bits n⟩, fun e => ?_⟩
    exact BitVec.eq_of_getLsbD_eq fun n _ => (bits n).trans (e.2.2 n).symm
  · rw [if_neg h]
    exact ⟨nofun, fun e => absurd ⟨e.1, e.2.1⟩ h⟩

/-- The constants of the instance are values of `PAT` (R83, R154); with `pat?_eq_some`, their bits. -/
theorem pat?_ones (c : Config) : pat? 1 c.N = some (ones c) := (Option.some_get _).symm

theorem pat?_msbs (c : Config) : pat? (BitVec.ofNat c.W (2 ^ (c.N - 1))) c.N = some (msbs c) := (Option.some_get _).symm

theorem pat?_popMask (k : PopLevel) :
    pat? (BitVec.ofNat 64 (2 ^ 2 ^ k.val - 1)) (2 ^ (k.val + 1)) = some (popMask k) := (Option.some_get _).symm

/-- `PAT` has no value exactly for an unsupported width or a value wider than the pattern. -/
theorem pat?_eq_none {W P : Nat} {p : BitVec W} : pat? p P = none ↔ ¬(PatternWidth W P ∧ p.toNat < 2 ^ P) := by
  unfold pat?
  by_cases h : PatternWidth W P ∧ p.toNat < 2 ^ P
  · rw [if_pos h]; exact ⟨nofun, fun e => absurd h e⟩
  · rw [if_neg h]; exact ⟨fun _ => h, fun _ => rfl⟩

/-- The supported widths of an instance are the powers of two up to W (R80, R82). -/
theorem patternWidth_iff (c : Config) (P : Nat) : PatternWidth c.W P ↔ (∃ i, P = 2 ^ i) ∧ P ≤ c.W := by
  constructor
  · rintro ⟨hi, hm⟩
    exact ⟨⟨_, hi⟩, (Nat.le_mul_of_pos_right _ (by positivity)).trans_eq hm.symm⟩
  · rintro ⟨⟨i, rfl⟩, hle⟩
    exact powerOfTwo_supported c hle

/-! ### Lowest and highest set bit -/

theorem ctz?_eq_some {W : Nat} {v : BitVec W} {p : Nat} :
    ctz? v = some p ↔ v.getLsbD p = true ∧ ∀ q < p, v.getLsbD q = false := by
  unfold ctz?
  rw [List.find?_range_eq_some]
  constructor
  · rintro ⟨h1, -, h2⟩
    exact ⟨h1, fun q hq => by simpa using h2 q hq⟩
  · rintro ⟨h1, h2⟩
    refine ⟨h1, List.mem_range.mpr (BitVec.lt_of_getLsbD h1), fun q hq => by simp [h2 q hq]⟩

theorem ctz?_eq_none {W : Nat} {v : BitVec W} : ctz? v = none ↔ v = 0 := by
  unfold ctz?
  rw [List.find?_eq_none]
  constructor
  · intro h
    apply BitVec.eq_of_getLsbD_eq
    intro i hi
    simpa using h i (List.mem_range.mpr hi)
  · rintro rfl x _
    simp

theorem msb?_eq_some {W : Nat} {v : BitVec W} {p : Nat} :
    msb? v = some p ↔ v.getLsbD p = true ∧ ∀ q, p < q → v.getLsbD q = false := by
  have key : ∀ n, (List.range n).reverse.find? (fun q => v.getLsbD q) = some p ↔
      p < n ∧ v.getLsbD p = true ∧ ∀ q, p < q → q < n → v.getLsbD q = false := by
    intro n
    induction n with
    | zero => simp
    | succ n ih =>
      rw [List.range_succ, List.reverse_append, List.reverse_singleton, List.singleton_append, List.find?_cons]
      cases hn : v.getLsbD n with
      | true =>
        simp only [Option.some.injEq]
        constructor
        · rintro rfl
          exact ⟨by omega, hn, fun q h1 h2 => by omega⟩
        · rintro ⟨h1, -, h3⟩
          by_contra hne
          have := h3 n (by omega) (by omega)
          simp [hn] at this
      | false =>
        rw [ih]
        constructor
        · rintro ⟨h1, h2, h3⟩
          refine ⟨by omega, h2, fun q hq hqn => ?_⟩
          by_cases h : q = n
          · rw [h, hn]
          · exact h3 q hq (by omega)
        · rintro ⟨h1, h2, h3⟩
          refine ⟨?_, h2, fun q hq hqn => h3 q hq (by omega)⟩
          by_contra h
          have : p = n := by omega
          rw [this, hn] at h2
          cases h2
  unfold msb?
  rw [key]
  constructor
  · rintro ⟨-, h2, h3⟩
    refine ⟨h2, fun q hq => ?_⟩
    by_cases h : q < W
    · exact h3 q hq h
    · exact BitVec.getLsbD_of_ge _ _ (by omega)
  · rintro ⟨h2, h3⟩
    exact ⟨BitVec.lt_of_getLsbD h2, h2, fun q hq _ => h3 q hq⟩

theorem msb?_eq_none {W : Nat} {v : BitVec W} : msb? v = none ↔ v = 0 := by
  unfold msb?
  rw [List.find?_eq_none]
  constructor
  · intro h
    apply BitVec.eq_of_getLsbD_eq
    intro i hi
    simpa using h i (by simpa using hi)
  · rintro rfl x _
    simp

/-! ### Sums and ORs over lanes -/

theorem getLsbD_orWords {w : Nat} (f : Nat → BitVec w) (b : Nat) :
    ∀ n, (orWords f n).getLsbD b = true ↔ ∃ i < n, (f i).getLsbD b = true
  | 0 => by simp [orWords]
  | n + 1 => by
    rw [orWords, BitVec.getLsbD_or, Bool.or_eq_true, getLsbD_orWords f b n]
    constructor
    · rintro (⟨i, hi, h⟩ | h)
      · exact ⟨i, by omega, h⟩
      · exact ⟨n, by omega, h⟩
    · rintro ⟨i, hi, h⟩
      by_cases hin : i = n
      · exact .inr (hin ▸ h)
      · exact .inl ⟨i, by omega, h⟩

/-- A sum of words no two of which share a 1 bit is their OR (R155). -/
theorem sumWords_eq_orWords {w : Nat} (f : Nat → BitVec w) :
    ∀ n, (∀ i < n, ∀ j < n, i ≠ j → f i &&& f j = 0) → sumWords f n = orWords f n
  | 0, _ => rfl
  | n + 1, h => by
    rw [sumWords, orWords, sumWords_eq_orWords f n fun i hi j hj => h i (by omega) j (by omega)]
    refine BitVec.add_eq_or_of_and_eq_zero _ _ ?_
    apply BitVec.eq_of_getLsbD_eq
    intro b _
    rw [BitVec.getLsbD_and]
    simp only [BitVec.getLsbD_zero, Bool.and_eq_false_iff]
    by_contra hc
    simp only [not_or, Bool.not_eq_false] at hc
    obtain ⟨i, hi, hb⟩ := (getLsbD_orWords f b n).mp hc.1
    have := congrArg (fun z : BitVec w => z.getLsbD b) (h i (by omega) n (by omega) (by omega))
    simp [hb, hc.2] at this

end Machine
end Sys2Proof
end

