-- ==== Sys2Proof/Tests/Slice0.lean ====
section
/-! SUPPORT. Tests/Slice0.lean: small checks of the model against the spec's own examples (`spec/95_test_vectors.md` and the
examples of the operation rules), and for every statement with hypotheses a state that meets them. Every expected value
is the spec's. -/

namespace Sys2Proof.Tests

open Sys2Proof Sys2Proof.Machine

/-! ### Small states -/

/-- The instances the vectors use, written (W, N). -/
def w64n8 : Config := { W := 64, N := 8, popHwMinLevel := 2, latency := 0, admitted := by decide }
def w32n4 : Config := { W := 32, N := 4, popHwMinLevel := 3, latency := 1, admitted := by decide }
def w16n4 : Config := { W := 16, N := 4, popHwMinLevel := 6, latency := 0, admitted := by decide }
def w8n2 : Config := { W := 8, N := 2, popHwMinLevel := 6, latency := 0, admitted := by decide }
def w8n8 : Config := { W := 8, N := 8, popHwMinLevel := 4, latency := 0, admitted := by decide }
def w8n1 : Config := { W := 8, N := 1, popHwMinLevel := 6, latency := 0, admitted := by decide }

/-- Operands on the lines, and nothing else. -/
def lines (c : Config) (a b : Nat) : State :=
  { State.load c [] [] with a := BitVec.ofNat c.W a, b := BitVec.ofNat c.W b }

/-- A program before an instance whose one input is named 0. -/
def program (c : Config) (x : Nat) (p : List Stmt) : State := State.load c [(0, BitVec.ofNat c.W x)] p

/-- A transaction of one operand name. -/
def unary (dst : Name) (cw : ControlWord) (x : Name) : Stmt := .transact dst cw (some (.name x)) none

/-- The end of a run as plain data: the value of a name and the fault, or the refusal. -/
def endOf (s : State) (n : Name) : Option ((Option (Kind × Nat)) × Option Fault) :=
  match runProgram s with
  | .ok t => some (t.valueOf n, t.recorded)
  | .error _ => none

/-- The scenario word [3, 7, 255, 0, 128, 1, 9, 64] of (64, 8) and its Boolean Lane Word. -/
def x : Nat := 0x4009018000FF0703
def g : Nat := 0x0000008000800000

/-! ### WellFormed refuses each ill-formed term -/

theorem test_pattern_wider_than_every_word_is_ill_formed : (Instr.pattern 7).wf = false := by decide
theorem test_popcnt_level_6_is_ill_formed : (Instr.popcnt 6).wf = false := by decide
theorem test_pattern_width_64_is_well_formed : (Instr.pattern 6).wf = true := by decide
theorem test_popcnt_level_5_is_well_formed : (Instr.popcnt 5).wf = true := by decide

/-! ### Decoding: every constructor's word, written from the fields `jjjjjj iiiiii ooooo` of R51 and R54 -/

theorem test_decode_zero : decode 0b000000_000000_00000 = .ok .zero := rfl
theorem test_decode_pattern : decode 0b000000_000011_00001 = .ok (.pattern 3) := rfl
theorem test_decode_topclr : decode 0b000000_000000_00010 = .ok .topclr := rfl
theorem test_decode_isolsb : decode 0b000000_000000_00011 = .ok .isolsb := rfl
theorem test_decode_clrlsb : decode 0b000000_000000_00100 = .ok .clrlsb := rfl
theorem test_decode_masklow : decode 0b000000_000000_00101 = .ok .masklow := rfl
theorem test_decode_isolsbits : decode 0b000000_000000_00110 = .ok .isolsbits := rfl
theorem test_decode_clrlsbits : decode 0b000000_000000_00111 = .ok .clrlsbits := rfl
theorem test_decode_at : decode 0b000000_000111_01000 = .ok (.atLane 7) := rfl
theorem test_decode_clear : decode 0b000000_000010_01001 = .ok (.clear 2) := rfl
theorem test_decode_set : decode 0b000101_000011_01010 = .ok (.set 3 5) := rfl
theorem test_decode_top : decode 0b000000_000000_01011 = .ok .top := rfl
theorem test_decode_lsbidx : decode 0b000000_000000_01100 = .ok .lsbidx := rfl
theorem test_decode_or : decode 0b000000_000000_01101 = .ok .or := rfl
theorem test_decode_and : decode 0b000000_000000_01110 = .ok .and := rfl
theorem test_decode_xor : decode 0b000000_000000_01111 = .ok .xor := rfl
theorem test_decode_broadcast : decode 0b000000_000000_10000 = .ok .broadcast := rfl
theorem test_decode_eq : decode 0b000000_000000_10001 = .ok .eq := rfl
theorem test_decode_popcnt : decode 0b000000_000101_10010 = .ok (.popcnt 5) := rfl
theorem test_decode_ge : decode 0b000000_000000_10011 = .ok .ge := rfl
theorem test_decode_gemsboff : decode 0b000000_000000_10100 = .ok .gemsboff := rfl
theorem test_decode_bnot : decode 0b000000_000000_10101 = .ok .bnot := rfl
theorem test_decode_bclear : decode 0b000000_000100_10110 = .ok (.bclear 4) := rfl
theorem test_decode_best : decode 0b000000_000000_10111 = .ok .best := rfl
theorem test_decode_bany : decode 0b000000_000000_11000 = .ok .bany := rfl
theorem test_decode_reserved_low : decode 0x00019 = .error .reservedOpcode := rfl
theorem test_decode_reserved_high : decode 0x1FFFF = .error .reservedOpcode := rfl
theorem test_decode_eq_with_j : decode 0x00811 = .error .nonZeroUnusedField := rfl
theorem test_decode_ge_with_i : decode 0x00033 = .error .nonZeroUnusedField := rfl
theorem test_decode_popcnt_level_6 : decode 0x000D2 = .error .popLevelReserved := rfl
theorem test_decode_pattern_width_128 : decode 0x000E1 = .error .patternWidthUnsupported := rfl
theorem test_table_word_with_a_bit_above_cw : decodeTableWord 24 0x020000 = none := by decide

/-! ### One transaction of each operation, and the witnesses of the operation statements -/

theorem test_zero : answer (exec .zero (lines w64n8 x x)) = .value 0 := by decide

theorem test_topclr : answer (exec .topclr (lines w16n4 5 6)) = .value 0xFFFF := by decide

theorem test_masklow_full_width : answer (exec .masklow (lines w8n8 5 6)) = .value 0xFF := by decide

/-- PatternReplicates and PatternPeriodic: a width and a value that fit. -/
theorem test_pattern : 2 ^ (3 : SmallField).toNat ≤ (lines w64n8 0xA5 0).cfg.W ∧ (lines w64n8 0xA5 0).a.toNat < 2 ^ 2 ^ 3 ∧
    Answers (.pattern 3) (lines w64n8 0xA5 0) 0xA5A5A5A5A5A5A5A5#64 ∧
    answer (exec (.pattern 3) (lines w64n8 0xA5 0)) = .value 0xA5A5A5A5A5A5A5A5 := ⟨by decide, by decide, rfl, by decide⟩

/-- PatternReplicates: the first value too wide, the widest width, the first width refused. -/
theorem test_pattern_bounds :
    exec (.pattern 1) (lines w64n8 4 0) = .fault (.patternValueTooWide 4 2) ∧
    answer (exec (.pattern 3) (lines w8n2 0xA5 0)) = .value 0xA5 ∧
    exec (.pattern 4) (lines w8n2 0 0) = .refused .patternWidthUnsupported := ⟨rfl, by decide, rfl⟩

/-- LowestBitIsolatedAndCleared: both clauses. -/
theorem test_isolsb : (lines w8n1 0x68 0).a ≠ 0 ∧ answer (exec .isolsb (lines w8n1 0x68 0)) = .value 0x08 ∧
    answer (exec .isolsb (lines w8n1 0 0)) = .value 0 := by decide

theorem test_clrlsb : answer (exec .clrlsb (lines w8n1 0x68 0)) = .value 0x60 ∧
    answer (exec .clrlsb (lines w8n1 0 0)) = .value 0 := by decide

/-- LowestLaneIsolatedAndCleared: both clauses; the vector that separates the two readings of D13. -/
theorem test_isolsbits : (lines w16n4 0x0B60 0).a ≠ 0 ∧ answer (exec .isolsbits (lines w16n4 0x0B60 0)) = .value 0x0060 ∧
    answer (exec .isolsbits (lines w16n4 0 0)) = .value 0 := by decide

theorem test_clrlsbits : answer (exec .clrlsbits (lines w16n4 0x0B60 0)) = .value 0x0B00 ∧
    answer (exec .clrlsbits (lines w16n4 0 0)) = .value 0 := by decide

/-- AtReadsLane: the last lane and the first index out of range. -/
theorem test_at : (7 : SmallField).toNat < (lines w64n8 x 0).cfg.L ∧ answer (exec (.atLane 7) (lines w64n8 x 0)) = .value 0x40 := by
  decide

theorem test_at_out_of_range : (lines w64n8 x 0).cfg.L ≤ (8 : SmallField).toNat ∧
    exec (.atLane 8) (lines w64n8 x 0) = .fault (.laneIndexOutOfRange 8) := ⟨by decide, rfl⟩

/-- ClearZeroesLane: a lane, and the first index out of range. -/
theorem test_clear : (2 : SmallField).toNat < (lines w64n8 x 0).cfg.L ∧
    answer (exec (.clear 2) (lines w64n8 x 0)) = .value 0x4009018000000703 := by decide

theorem test_clear_out_of_range : exec (.clear 8) (lines w64n8 x 0) = .fault (.laneIndexOutOfRange 8) := rfl

/-- SetSetsOneBit and SetAndClearTouchOneLane: the last lane and bit. -/
theorem test_set : (7 : SmallField).toNat < (lines w64n8 0 0).cfg.L ∧ (7 : SmallField).toNat < (lines w64n8 0 0).cfg.N ∧
    answer (exec (.set 7 7) (lines w64n8 0 0)) = .value 0x8000000000000000 := by decide

/-- SetSetsOneBit, RefusalBeforeFault: the first bit out of range, and both out of range. -/
theorem test_set_out_of_range : exec (.set 0 8) (lines w64n8 x 0) = .fault (.bitPositionOutOfRange 8) ∧
    exec (.set 9 9) (lines w64n8 x 0) = .fault (.laneIndexOutOfRange 9) := ⟨rfl, rfl⟩

/-- TopAnswersHighestLane: both clauses. -/
theorem test_top : (lines w16n4 0x0A50 0).a ≠ 0 ∧ answer (exec .top (lines w16n4 0x0A50 0)) = .value 2 := by decide

theorem test_top_of_zero : exec .top (lines w16n4 0 0) = .fault .zeroOperand := rfl

/-- LsbidxAnswersLowestLane: both clauses. -/
theorem test_lsbidx : (lines w16n4 0x0A50 0).a ≠ 0 ∧ answer (exec .lsbidx (lines w16n4 0x0A50 0)) = .value 1 := by decide

theorem test_lsbidx_of_zero : exec .lsbidx (lines w16n4 0 0) = .fault .zeroOperand := rfl

theorem test_or : answer (exec .or (lines w64n8 x 0xF0)) = .value 0x4009018000FF07F3 := by decide

theorem test_and : answer (exec .and (lines w64n8 x 0x8080808080808080)) = .value 0x0000008000800000 := by decide

theorem test_xor : answer (exec .xor (lines w64n8 x 0x0101010101010101)) = .value 0x4108008101FE0602 := by decide

/-- BroadcastFillsLanes: the largest lane value and the first value too wide. -/
theorem test_broadcast : (lines w32n4 0xF 0).a.toNat < 2 ^ (lines w32n4 0xF 0).cfg.N ∧
    answer (exec .broadcast (lines w32n4 0xA 0)) = .value 0xAAAAAAAA := by decide

theorem test_broadcast_too_wide : exec .broadcast (lines w32n4 0x10 0) = .fault (.broadcastOperandTooWide 0x10) := rfl

theorem test_eq : answer (exec .eq (lines w64n8 x x)) = .value 1 ∧
    answer (exec .eq (lines w64n8 x 0xC009018000FF0703)) = .value 0 := by decide

/-- PopcntAnswersReference and PopcntCountsBits: the lowest level by the logic tree, and the highest by the cells. -/
theorem test_popcnt : (5 : SmallField).toNat ≤ 5 ∧ answer (exec (.popcnt 0) (lines w64n8 x 0)) = .value 0x4005014000AA0602 ∧
    answer (exec (.popcnt 2) (lines w64n8 x 0)) = .value 0x0102010100080302 ∧
    answer (exec (.popcnt 5) (lines w64n8 x 0)) = .value 0x12 := by decide

theorem test_popcnt_narrow : answer (exec (.popcnt 1) (lines w8n1 0xB7 0)) = .value 0x33 ∧
    answer (exec (.popcnt 5) (lines w8n1 0xB7 0)) = .value 0x06 ∧
    exec (.popcnt 6) (lines w8n1 0xB7 0) = .refused .popLevelReserved := ⟨by decide, by decide, rfl⟩

/-- GeMeetsContract: the largest constant, where the source's literal algorithm answers otherwise; the scenario. -/
theorem test_ge : 1 < (lines w16n4 0x8F50 15).cfg.N ∧ (lines w16n4 0x8F50 15).b.toNat < 2 ^ (lines w16n4 0x8F50 15).cfg.N ∧
    answer (exec .ge (lines w16n4 0x8F50 15)) = .value 0x0800 ∧
    answer (exec .ge (lines w64n8 x 100)) = .value 0x0000008000800000 := by decide

theorem test_ge_stops : exec .ge (lines w16n4 0x8F50 16) = .fault (.constantTooWide 16) ∧
    exec .ge (lines w8n1 1 1) = .refused .degenerateLane := ⟨rfl, rfl⟩

/-- GeDatapathMeetsContract and GeLiteralRange: constants inside their hypotheses (K = 0; K at 2^(N-1) with low lanes). -/
theorem test_ge_datapath : 1 < w16n4.N ∧ 8 ≤ 2 ^ (w16n4.N - 1) ∧
    (∀ k < w16n4.L, laneNat w16n4.N (0x7350 : BitVec 16) k < 2 ^ (w16n4.N - 1)) ∧
    geDatapath w16n4 (0x8F50 : BitVec 16) 9 = 0x0800 ∧ geLiteral w16n4 (0x8F50 : BitVec 16) 9 = 0x8008 := by decide

/-- GemsboffComparesLanes: MSBs off in both operands. -/
theorem test_gemsboff : (lines w16n4 0x7350 0x2361).a &&& msbs (lines w16n4 0x7350 0x2361).cfg = 0 ∧ (lines w16n4 0x7350 0x2361).b &&& msbs (lines w16n4 0x7350 0x2361).cfg = 0 ∧
    answer (exec .gemsboff (lines w16n4 0x7350 0x2361)) = .value 0x8800 := by decide

theorem test_gemsboff_stops : exec .gemsboff (lines w16n4 0x8350 0x2361) = .fault (.msbNotOff 0x8350 0x2361) ∧
    exec .gemsboff (lines w8n1 0 0) = .refused .degenerateLane := ⟨rfl, rfl⟩

/-- ComparisonLanesIndependent: two left words that share lane 1, compared with one constant and with one word. -/
theorem test_comparison_lanes : 1 < w16n4.L ∧ laneNat w16n4.N (0x1152 : BitVec 16) 1 = laneNat w16n4.N (lines w16n4 0x7350 5).a 1 ∧
    Answers .ge (lines w16n4 0x7350 5) 0x8080#16 ∧
    Answers .ge { lines w16n4 0x7350 5 with a := (0x1152 : BitVec 16) } 0x0080#16 ∧
    Answers .gemsboff (lines w16n4 0x7350 5) 0x8880#16 ∧
    Answers .gemsboff { lines w16n4 0x7350 5 with a := (0x1152 : BitVec 16), b := (0x0005 : BitVec 16) } 0x8880#16 :=
  ⟨by decide, by decide, rfl, rfl, rfl, rfl⟩

/-- BnotFlipsTruthBits and DoubleNegationIsIdentity: lanes wider than one bit; and N = 1. -/
theorem test_bnot : 1 < (lines w64n8 g 0).cfg.N ∧ answer (exec .bnot (lines w64n8 g 0)) = .value 0x8080800080008080 ∧
    answer (exec .bnot (lines w64n8 0x8080800080008080 0)) = .value 0x0000008000800000 := by decide

theorem test_bnot_degenerate : exec .bnot (lines w8n1 0 0) = .refused .degenerateLane := rfl

/-- BclearClearsOneTruthBit: the last lane of a Boolean Lane Word; the stops. -/
theorem test_bclear : (3 : SmallField).toNat < (lines w16n4 0x8080 0).cfg.L ∧ isBoolWord w16n4 (lines w16n4 0x8080 0).a = true ∧
    answer (exec (.bclear 3) (lines w16n4 0x8080 0)) = .value 0x0080 := by decide

theorem test_bclear_stops : exec (.bclear 4) (lines w16n4 0x8080 0) = .fault (.laneIndexOutOfRange 4) ∧
    exec (.bclear 0) (lines w8n1 0 0) = .refused .degenerateLane := ⟨rfl, rfl⟩

/-- BestAnswersHighestTrueLane: the source's example E1; the stops. -/
theorem test_best : (lines w64n8 0x0080000000008000 0).a ≠ 0 ∧ isBoolWord w64n8 (lines w64n8 0x0080000000008000 0).a = true ∧
    answer (exec .best (lines w64n8 0x0080000000008000 0)) = .value 6 := by decide

theorem test_best_stops : exec .best (lines w64n8 0 0) = .fault .zeroOperand ∧
    exec .best (lines w8n1 0 0) = .refused .degenerateLane := ⟨rfl, rfl⟩

/-- BanySaysWhetherAnyLaneIsTrue: both answers; N = 1. -/
theorem test_bany : isBoolWord w64n8 (lines w64n8 g 0).a = true ∧ answer (exec .bany (lines w64n8 g 0)) = .value 1 ∧
    answer (exec .bany (lines w64n8 0 0)) = .value 0 := by decide

theorem test_bany_degenerate : exec .bany (lines w8n1 0 0) = .refused .degenerateLane := rfl

/-! ### The constants (R83, R154) and the other hypotheses over instances -/

/-- ConstantMasks and PatternWidthsSupported too: a lane value; widths of R82 and the source's 3 bits in 64. -/
theorem test_constants : ones w32n4 = 0x11111111 ∧ msbs w16n4 = 0x8888 ∧ ones w8n8 = 0x01 ∧ msbs w8n1 = 0xFF ∧
    pat? (3 : BitVec w8n2.W) w8n2.N = some 0xFF ∧ pat? (5 : BitVec 64) 3 = none ∧ pat? (0 : BitVec 64) 0 = none ∧
    pat? (1 : BitVec 8) 16 = none ∧ pat? (4 : BitVec 8) 2 = none ∧ lowMask 64 32 = 0x00000000FFFFFFFF := by decide

/-- PopRefCountsGroups, PopulationCountPathsAgree: a level and a switch level in range. -/
theorem test_popcount_paths : (2 ≤ 3 ∧ 3 ≤ 5) ∧ (2 ≤ 6 ∧ 6 ≤ 6) ∧ popRef 3 0x4009018000FF0703 = 0x0003000200080005 ∧
    popLogic 3 0x4009018000FF0703 = 0x0003000200080005 ∧ popHW 3 0x4009018000FF0703 = 0x0003000200080005 := by decide

/-- LanesMakeTheWord: the last lane and its last bit. -/
theorem test_lanes : 7 < w64n8.L ∧ 6 < w64n8.N ∧ laneNat 8 (0x4009018000FF0703 : BitVec 64) 7 = 64 ∧
    (0x4009018000FF0703 : BitVec 64).getLsbD (7 * 8 + 6) = true := by decide

/-- BadConfigurationRefused: an admitted instance, and one refused for each parameter. -/
theorem test_elaborate : ParametersAdmitted 64 64 6 ∧ ¬ParametersAdmitted 24 8 6 ∧
    elaborate 24 8 6 0 = .error .badConfiguration ∧ elaborate 64 3 6 0 = .error .badConfiguration ∧
    elaborate 64 0 6 0 = .error .badConfiguration ∧ elaborate 64 8 1 0 = .error .badConfiguration := by
  refine ⟨by decide, by decide, rfl, rfl, rfl, rfl⟩

/-- BadConfigurationRefused: two states of one (W, N), the same with a fault recorded in the source, and two that share W
alone, a fault recorded or not. -/
theorem test_wiring : wireA (lines w8n2 0 0) (lines w8n2 5 6) = .next (lines w8n2 0 6) ∧
    wireA { lines w8n2 0 0 with recorded := some .zeroOperand } (lines w8n2 5 6) = .fault .zeroOperand ∧
    wireB { lines w8n2 0 0 with recorded := some .zeroOperand } (lines w8n8 5 6) = .refused .badConfiguration ∧
    wireB (lines w8n2 0 0) (lines w8n8 5 6) = .refused .badConfiguration := ⟨rfl, rfl, rfl, rfl⟩

/-! ### Encoding statements -/

/-- DecodeEncodeAgree, DecodeOnlyCanonicalWords and ControlWordLayout: an instruction with every field in use. -/
theorem test_encode : (Instr.set 3 5).wf = true ∧ encode (.set 3 5) = 0x0286A ∧ decode 0x0286A = .ok (.set 3 5) :=
  ⟨rfl, rfl, rfl⟩

/-- RequestLegalExactly: for each condition a word that breaks it alone, at the bound. -/
theorem test_request_legality :
    requestInstr w8n1 0x00019 = .error .reservedOpcode ∧ requestInstr w64n8 0x00802 = .error .nonZeroUnusedField ∧
    requestInstr w8n2 0x00081 = .error .patternWidthUnsupported ∧ requestInstr w64n8 0x000D2 = .error .popLevelReserved ∧
    requestInstr w8n1 0x00018 = .error .degenerateLane ∧ requestInstr w8n2 0x00018 = .ok .bany ∧
    requestInstr w8n2 0x00061 = .ok (.pattern 3) := ⟨rfl, rfl, rfl, rfl, rfl, rfl, rfl⟩

/-! ### The step and its statements -/

/-- IdleLinesReadZero, ResetMeetsInvariants: the reset lines are the request ZERO. -/
theorem test_reset_step : step State.reset = .next State.reset := rfl

/-- StepRunsRequestOnLines: a table word in the place of the next request. -/
theorem test_fetch_word : decodeTableWord 24 0x0002 = some .topclr ∧
    answer (step (State.reset.withFetchWord 24 0x0002)) = .value 0xFFFFFFFFFFFFFFFF := by decide

/-- StepRunsNextStatement: an accepted program whose next statement is a transaction of a name and a literal. -/
theorem test_statement_step :
    let s := program w16n4 0x8F50 [.transact 1 0x00013 (some (.name 0)) (some (.lit 5))]
    s.Accepted ∧ s.lineValue s.a (some (.name 0)) = .ok 0x8F50#16 ∧ s.lineValue s.b (some (.lit 5)) = .ok 5#16 ∧
    step s = .next { cfg := w16n4, cw := 0x00013, a := (0x8F50 : BitVec 16), b := (5 : BitVec 16), r := (0x8880 : BitVec 16), pending := [], recorded := none, bound := { name := 1, kind := .bool, value := (0x8880 : BitVec 16) } :: s.bound } := ⟨⟨rfl, rfl⟩, rfl, rfl, rfl⟩

/-- WrapAndRawPerformNoTransaction: a RAW and a WRAP of an input. -/
theorem test_wrap_and_raw : (program w16n4 0x8F50 [.raw 1 (.name 0)]).Accepted ∧
    endOf (program w16n4 0x8F50 [.raw 1 (.name 0)]) 1 = some (some (.word, 0x8F50), none) ∧
    endOf (program w16n4 0x8F50 [.wrap 1 (.name 0)]) 1 = some (some (.word, 0x8F50), none) := ⟨⟨rfl, rfl⟩, by decide, by decide⟩

/-- RefusalBeforeFault: refused lines, and a refused program. -/
theorem test_refused_step : step { lines w8n1 0 0 with cw := 0x00017 } = .refused .degenerateLane ∧
    step (program w16n4 0 [unary 1 0x0000B 7]) = .refused (.undefinedName 7) := ⟨rfl, rfl⟩

/-- FaultStopsTheRun: program P7a; the names before the fault are bound, and none after. -/
theorem test_faulted_run :
    let s := program w64n8 x [.transact 1 0x00000 none none, unary 2 0x0000B 1,
      .transact 3 0x0000D (some (.name 0)) (some (.name 1))]
    s.Accepted ∧ endOf s 1 = some (some (.word, 0), some .zeroOperand) ∧ endOf s 2 = some (none, some .zeroOperand) ∧
    endOf s 3 = some (none, some .zeroOperand) := ⟨⟨rfl, rfl⟩, by decide, by decide, by decide⟩

/-- OpenParametersInvisible: another switch level and latency at a level whose path they change. -/
theorem test_open_parameters : (2 ≤ 6 ∧ 6 ≤ 6) ∧
    answer (transact 0x000B2 ((lines w64n8 x 0).withOpenParameters 6 9 (by decide))) = .value 0x12 ∧
    answer (transact 0x000B2 (lines w64n8 x 0)) = .value 0x12 := by decide

/-- IgnoredOperandsIgnored, OperationsWriteOnlyResult and RepeatingChangesNothing: a next state to start from. -/
theorem test_repeating : aKind .topclr = none ∧ bKind .isolsb = none ∧
    transact 0x00003 (lines w8n2 0x68 0) = .next ((lines w8n2 0x68 0).setR (0x08 : BitVec 8)) ∧
    transact 0x00003 ((lines w8n2 0x68 0).setR (0x08 : BitVec 8)) = .next ((lines w8n2 0x68 0).setR (0x08 : BitVec 8)) :=
  ⟨rfl, rfl, rfl, rfl⟩

/-- ProducersKeepBoolInvariant: a producer from a Boolean Lane Word. -/
theorem test_producer : resultKind .bnot = .bool ∧ isBoolWord w16n4 (lines w16n4 0x8080 0).a = true ∧
    Answers .bnot (lines w16n4 0x8080 0) 0x0808#16 := ⟨rfl, by decide, rfl⟩

/-- StepKeepsBoolInvariant, AcceptedRunNeverRefused and ParametersNeverChange: legal lines, a Bool bound, and a step. -/
theorem test_invariant_step :
    let s := (State.load w16n4 [] [unary 2 0x00015 1]).define 1 .bool (0x8080 : BitVec 16)
    s.BoolsKept ∧ s.LinesLegal ∧ answer (step s) = .value 0x0808 := by
  refine ⟨?_, ⟨.zero, rfl⟩, by decide⟩
  intro e he
  obtain rfl := List.mem_singleton.mp he
  decide

/-- KindMismatchRefused: program P7b, where an earlier statement defines the Word; and a literal, with nothing before it. -/
theorem test_kind_mismatch :
    let m := Stmt.transact 1 0x0000E (some (.name 0)) (some (.lit 0x8080808080808080))
    let s := program w64n8 x [m, unary 2 0x00017 1]
    s.recorded = none ∧ duplicateName? s.scope = none ∧ s.pending = [m] ++ unary 2 0x00017 1 :: [] ∧
    programScope s.cfg s.scope [m] = .ok [(1, .word), (0, .word)] ∧ requestInstr s.cfg 0x00017 = .ok .best ∧
    aKind .best = some .bool ∧ Scope.kindOf [(1, .word), (0, .word)] 1 = some .word ∧
    step s = .refused .kindMismatch ∧ runProgram s = .error .kindMismatch ∧
    step (program w64n8 g [.transact 1 0x00017 (some (.lit 128)) none]) = .refused .kindMismatch :=
  ⟨rfl, rfl, rfl, rfl, rfl, rfl, rfl, rfl, rfl, rfl⟩

/-- AcceptedProgramEnds: program P8 as far as its second BEST, in (8, 2). -/
theorem test_accepted_program :
    let s := program w8n2 0xE4 [.transact 1 0x00013 (some (.name 0)) (some (.lit 2)), unary 2 0x00017 1, unary 3 0x00076 1,
      unary 4 0x00017 3]
    s.Accepted ∧ endOf s 3 = some (some (.bool, 0x20), none) ∧ endOf s 4 = some (some (.word, 2), none) :=
  ⟨⟨rfl, rfl⟩, by decide, by decide⟩

/-- StatementOrderIrrelevant: two orders of two statements, both accepted, with one end. -/
theorem test_statement_order :
    let p := [unary 1 0x00003 0, unary 2 0x00004 0]
    let q := [unary 2 0x00004 0, unary 1 0x00003 0]
    p.Perm q ∧ (program w8n2 0x68 q).programRefusal = none ∧ (program w8n2 0x68 p).programRefusal = none ∧
    endOf (program w8n2 0x68 p) 1 = some (some (.word, 0x08), none) ∧
    endOf (program w8n2 0x68 q) 1 = some (some (.word, 0x08), none) :=
  ⟨List.Perm.swap _ _ _, rfl, rfl, by decide, by decide⟩

/-! ### Program text (R60): the four examples of the rule -/

theorem test_assemble_ge :
    assemble w64n8 { dst := 1, mnemonic := .GE, a := some (.name 0), b := some (.lit 100) } =
      .ok (.transact 1 0x00013 (some (.name 0)) (some (.lit 100))) := rfl

theorem test_assemble_set :
    assemble w64n8 { dst := 2, mnemonic := .SET, a := some (.name 0), lane := some 2, bit := some 5 } =
      .ok (.transact 2 0x0284A (some (.name 0)) none) := rfl

theorem test_assemble_popcnt :
    assemble w64n8 { dst := 3, mnemonic := .POPCNT, a := some (.name 0), level := some 2 } =
      .ok (.transact 3 0x00052 (some (.name 0)) none) := rfl

theorem test_assemble_pattern :
    assemble w64n8 { dst := 4, mnemonic := .PATTERN, a := some (.lit 0x80), width := some 8 } =
      .ok (.transact 4 0x00061 (some (.lit 0x80)) none) := by rfl

theorem test_assemble_pattern_odd_width :
    assemble w64n8 { dst := 4, mnemonic := .PATTERN, a := some (.lit 5), width := some 3 } =
      .error (.widthNotPowerOfTwo 3) := by rfl

/-- PseudoOperationsExpand: the constants of (16, 4), and an operand with a value for WRAP and RAW. -/
theorem test_assemble_constants :
    assemble w16n4 { dst := 1, mnemonic := .ONES } = .ok (.transact 1 0x00041 (some (.lit 1)) none) ∧
    assemble w16n4 { dst := 1, mnemonic := .MSBS } = .ok (.transact 1 0x00041 (some (.lit 8)) none) ∧
    (lines w16n4 0 0).sourceValue (.lit 9) = .ok 9#16 := ⟨by rfl, by rfl, rfl⟩

end Sys2Proof.Tests
end

section
/-! PROOFS. The word and its lanes (`10_state.md` R23): the sum of the lanes, and the lane mask on naturals. -/

namespace Sys2Proof.Machine

/-- The low `n * N` bits of a word are its first n lanes, each at its offset (R23). -/
theorem toNat_mod_eq_sum_lanes {W : Nat} (N : Nat) (v : BitVec W) (n : Nat) :
    v.toNat % 2 ^ (n * N) = ∑ k ∈ Finset.range n, laneNat N v k * 2 ^ (k * N) := by
  induction n with
  | zero => simp [Nat.mod_one]
  | succ n ih =>
    rw [Finset.sum_range_succ, ← ih, Nat.succ_mul, Nat.pow_add, Nat.mod_mul, laneNat, Nat.mul_comm (2 ^ (n * N))]

/-- A word is the sum of all its lanes (R23). -/
theorem toNat_eq_sum_lanes (c : Config) (v : BitVec c.W) :
    v.toNat = ∑ k ∈ Finset.range c.L, laneNat c.N v k * 2 ^ (k * c.N) := by
  rw [← toNat_mod_eq_sum_lanes, c.lanes_mul_width, Nat.mod_eq_of_lt v.isLt]

theorem laneNat_lt {W : Nat} (N : Nat) (v : BitVec W) (k : Nat) : laneNat N v k < 2 ^ N :=
  Nat.mod_lt _ (Nat.two_pow_pos N)

theorem lowMask_toNat {W n : Nat} (h : n ≤ W) : (lowMask W n).toNat = 2 ^ n - 1 := by
  have hle : 2 ^ n ≤ 2 ^ W := Nat.pow_le_pow_right Nat.two_pos h
  have hpos : 0 < 2 ^ n := Nat.two_pow_pos n
  rw [lowMask, BitVec.toNat_ofNat, Nat.mod_eq_of_lt (by omega)]

/-- The bits of lane k lie inside the word (R23). -/
theorem lane_end_le (c : Config) {k : Nat} (hk : k < c.L) : k * c.N + c.N ≤ c.W := by
  rw [← c.lanes_mul_width, ← Nat.succ_mul]
  exact Nat.mul_le_mul_right c.N hk

/-- The mask of one of the L lanes, as a number: nothing of it is shifted out of the word (R23). -/
theorem laneMask_toNat (c : Config) {k : Nat} (hk : k < c.L) :
    (laneMask c.W c.N k).toNat = (2 ^ c.N - 1) * 2 ^ (k * c.N) := by
  have hfit : (2 ^ c.N - 1) * 2 ^ (k * c.N) < 2 ^ c.W :=
    calc (2 ^ c.N - 1) * 2 ^ (k * c.N)
      _ < 2 ^ c.N * 2 ^ (k * c.N) :=
        Nat.mul_lt_mul_of_pos_right (Nat.sub_one_lt (Nat.two_pow_pos _).ne') (Nat.two_pow_pos _)
      _ = 2 ^ (k * c.N + c.N) := by rw [← Nat.pow_add, Nat.add_comm]
      _ ≤ 2 ^ c.W := Nat.pow_le_pow_right Nat.two_pos (lane_end_le c hk)
  rw [laneMask, BitVec.toNat_shiftLeft, lowMask_toNat c.lane_le_word, Nat.shiftLeft_eq, Nat.mod_eq_of_lt hfit]

/-- Settles O1: the sum is the induction `toNat_mod_eq_sum_lanes` taken at all L lanes. -/
theorem lanesMakeTheWord : Obligations.LanesMakeTheWord := by
  intro c v
  refine ⟨toNat_eq_sum_lanes c v, fun k => ⟨lane_toNat c.N v k, laneNat_lt c.N v k⟩,
    fun k hk => laneMask_toNat c hk, fun k _ q hq => ?_⟩
  simp [testBit_laneNat, hq]

end Sys2Proof.Machine
end

section
/-! PROOFS. The answer is a function of the request (`10_state.md` R20). Each way a transaction ends carries equal answers
of what follows it to an equal answer of the whole; the two states compared differ in the requester's side alone, so every
condition on the way is the same for both. -/

namespace Sys2Proof.Machine

theorem answer_require_congr {c : Prop} [Decidable c] {f : Fault} {k k' : Ending} (h : answer k = answer k') :
    answer (require c f k) = answer (require c f k') := by
  by_cases hc : c <;> simp [hc, h]

theorem answer_requireSome_congr {α : Type} {v : Option α} {f : Fault} {k k' : α → Ending}
    (h : ∀ x, answer (k x) = answer (k' x)) : answer (requireSome v f k) = answer (requireSome v f k') := by
  cases v with
  | none => rfl
  | some x => exact h x

theorem answer_whenLegal_congr {instr : Instr} {s s' : State} {k k' : State → Ending} (hcfg : s'.cfg = s.cfg)
    (h : answer (k s') = answer (k' s)) : answer (whenLegal instr s' k) = answer (whenLegal instr s k') := by
  unfold whenLegal
  rw [hcfg]
  cases legality s.cfg instr with
  | none => exact h
  | some x => rfl

section withHistory
variable (s : State) (r : BitVec s.cfg.W) (pending : List Stmt) (bound : List (Binding s.cfg.W)) (recorded : Option Fault)

/-- No operation's answer depends on the requester's side of the state (R20). -/
theorem answer_exec_withHistory (instr : Instr) :
    answer (exec instr (s.withHistory r pending bound recorded)) = answer (exec instr s) := by
  cases instr with
  | zero | topclr | isolsb | clrlsb | masklow | isolsbits | clrlsbits | or | and | xor | eq => rfl
  | atLane _ | clear _ | broadcast => exact answer_require_congr rfl
  | set _ _ => exact answer_require_congr (answer_require_congr rfl)
  | top | lsbidx => exact answer_requireSome_congr fun _ => rfl
  | pattern _ | best =>
    simp only [exec, execPattern, execBest]
    exact answer_whenLegal_congr rfl (answer_requireSome_congr fun _ => rfl)
  | ge | gemsboff | bclear _ =>
    simp only [exec, execGe, execGemsboff, execBclear]
    exact answer_whenLegal_congr rfl (answer_require_congr rfl)
  | bnot | bany =>
    simp only [exec, execBnot, execBany]
    exact answer_whenLegal_congr rfl rfl
  | popcnt level =>
    simp only [exec, execPopcnt]
    cases popLevel? level with
    | none => rfl
    | some lvl => rfl

end withHistory

/-- Settles O16: a word that is no instruction is refused for itself, and of every other the operation's answer stands. -/
theorem resultDependsOnRequestOnly : Obligations.ResultDependsOnRequestOnly := by
  intro cw s r pending bound recorded
  unfold transact
  cases decode cw with
  | error e => rfl
  | ok instr => exact answer_exec_withHistory s r pending bound recorded instr

end Sys2Proof.Machine
end

section
/-! PROOFS. The frame of every operation (`10_state.md` R29). -/

namespace Sys2Proof.Machine

/-- Where the ending is a next state, that state is s with some value on `r` (R29). -/
def WritesOnlyR (s : State) (e : Ending) : Prop := ∀ t, e = .next t → ∃ v, t = s.setR v

theorem writesOnlyR_deliver (s : State) (v : BitVec s.cfg.W) : WritesOnlyR s (deliver s v) := by
  rintro t ⟨⟩
  exact ⟨v, rfl⟩

theorem writesOnlyR_refused (s : State) (x : Refusal) : WritesOnlyR s (.refused x) := nofun

theorem WritesOnlyR.require {s : State} {k : Ending} (c : Prop) [Decidable c] (f : Fault) (hk : WritesOnlyR s k) :
    WritesOnlyR s (require c f k) :=
  fun t h => hk t (require_eq_next.mp h).2

theorem WritesOnlyR.requireSome {α : Type} {s : State} {k : α → Ending} (v : Option α) (f : Fault)
    (hk : ∀ x, WritesOnlyR s (k x)) : WritesOnlyR s (requireSome v f k) := by
  intro t h
  obtain ⟨x, _, hx⟩ := requireSome_eq_next.mp h
  exact hk x t hx

theorem WritesOnlyR.whenLegal {s : State} {k : State → Ending} (instr : Instr) (hk : WritesOnlyR s (k s)) :
    WritesOnlyR s (whenLegal instr s k) :=
  fun t h => hk t (whenLegal_eq_next.mp h).2

/-- No operation writes anything but `r` (R29). -/
theorem exec_writesOnlyR (instr : Instr) (s : State) : WritesOnlyR s (exec instr s) := by
  cases instr with
  | zero | topclr | isolsb | clrlsb | masklow | isolsbits | clrlsbits | or | and | xor | eq =>
    exact writesOnlyR_deliver s _
  | atLane _ | clear _ | broadcast => exact (writesOnlyR_deliver s _).require _ _
  | set _ _ => exact ((writesOnlyR_deliver s _).require _ _).require _ _
  | top | lsbidx => exact .requireSome _ _ fun _ => writesOnlyR_deliver s _
  | pattern _ | best =>
    simp only [exec, execPattern, execBest]
    exact .whenLegal _ (.requireSome _ _ fun _ => writesOnlyR_deliver s _)
  | ge | gemsboff | bclear _ =>
    simp only [exec, execGe, execGemsboff, execBclear]
    exact .whenLegal _ ((writesOnlyR_deliver s _).require _ _)
  | bnot | bany =>
    simp only [exec, execBnot, execBany]
    exact .whenLegal _ (writesOnlyR_deliver s _)
  | popcnt level =>
    simp only [exec, execPopcnt]
    cases popLevel? level with
    | none => exact writesOnlyR_refused s _
    | some lvl => exact writesOnlyR_deliver s _

theorem flagWord_eq_zero_or_one (W : Nat) (c : Bool) : flagWord W c = 0 ∨ flagWord W c = 1 := by
  cases c with
  | false => exact .inl rfl
  | true => exact .inr rfl

/-- EQ and BANY leave a truth value on `r` (R29, R130, R193). -/
theorem exec_truth_zero_or_one {instr : Instr} {s t : State} (htruth : instr = .eq ∨ instr = .bany)
    (h : exec instr s = .next t) : t.r = 0 ∨ t.r = 1 := by
  rcases htruth with rfl | rfl
  · obtain rfl : s.setR _ = t := Host.Outcome.next.inj h
    exact flagWord_eq_zero_or_one _ _
  · simp only [exec, execBany] at h
    obtain rfl : s.setR _ = t := Host.Outcome.next.inj (whenLegal_eq_next.mp h).2
    exact flagWord_eq_zero_or_one _ _

/-- Settles O17: the frame of every operation, and the value EQ and BANY put on `r`. -/
theorem operationsWriteOnlyResult : Obligations.OperationsWriteOnlyResult := by
  intro instr s t h
  obtain ⟨v, rfl⟩ := exec_writesOnlyR instr s t h
  exact ⟨v, rfl, fun htruth => exec_truth_zero_or_one htruth h⟩

end Sys2Proof.Machine
end

section
/-! PROOFS. The layout of the control word (`30_encoding.md` R51): each field as arithmetic on the word, and everything the
opcode map (R54) can answer, said once for both statements of this part. -/

namespace Sys2Proof

/-! ### The fields as numbers -/

theorem opcField_toNat (cw : ControlWord) : (opcField cw).toNat = cw.toNat % 32 := by
  simp [opcField]

theorem iField_toNat (cw : ControlWord) : (iField cw).toNat = cw.toNat / 32 % 64 := by
  simp [iField, Nat.shiftRight_eq_div_pow]

theorem jField_toNat (cw : ControlWord) : (jField cw).toNat = cw.toNat / 2048 := by
  have hcw : cw.toNat < 2 ^ 17 := cw.isLt
  rw [jField, BitVec.extractLsb'_toNat, Nat.shiftRight_eq_div_pow]
  omega

/-- R51's formula, `cw = opc + 32*i + 2048*j`. -/
theorem packFields_toNat (opc : OpCode) (i j : SmallField) :
    (packFields opc i j).toNat = opc.toNat + 32 * i.toNat + 2048 * j.toNat := by
  have hopc : opc.toNat = (packFields opc i j).toNat % 32 := by rw [← opcField_toNat, opcField_packFields]
  have hi : i.toNat = (packFields opc i j).toNat / 32 % 64 := by rw [← iField_toNat, iField_packFields]
  have hj : j.toNat = (packFields opc i j).toNat / 2048 := by rw [← jField_toNat, jField_packFields]
  omega

/-! ### The fields a format uses -/

/-- The operations whose format uses `i` (R52, R54): PATTERN, AT, CLEAR, SET, POPCNT, BCLEAR. -/
def iOpcodes : List OpCode := [0x01, 0x08, 0x09, 0x0A, 0x12, 0x16]

/-- R55 condition 2: the fields the word's format does not use are 0. -/
def UnusedZero (cw : ControlWord) : Prop :=
  (iField cw ≠ 0 → opcField cw ∈ iOpcodes) ∧ (jField cw ≠ 0 → opcField cw = 0x0A)

theorem mem_iOpcodes_iff_toNat (opc : OpCode) : opc ∈ iOpcodes ↔ opc.toNat ∈ [0x01, 0x08, 0x09, 0x0A, 0x12, 0x16] := by
  simp [iOpcodes, ← BitVec.toNat_inj]

theorem unusedZero_iff_toNat (cw : ControlWord) : UnusedZero cw ↔
    (iField cw ≠ 0 → (opcField cw).toNat ∈ [0x01, 0x08, 0x09, 0x0A, 0x12, 0x16]) ∧
      (jField cw ≠ 0 → (opcField cw).toNat = 0x0A) := by
  rw [UnusedZero, mem_iOpcodes_iff_toNat, ← BitVec.toNat_inj (y := (0x0A : OpCode))]
  rfl

theorem Instr.opcode_le (instr : Instr) : instr.opcode.toNat ≤ 0x18 := by
  cases instr <;> simp [Instr.opcode]

theorem Instr.opcode_of_iValue {instr : Instr} (h : instr.iValue ≠ 0) : instr.opcode ∈ iOpcodes := by
  cases instr with
  | pattern _ | atLane _ | clear _ | set _ _ | popcnt _ | bclear _ => simp [iOpcodes, Instr.opcode]
  | zero | topclr | isolsb | clrlsb | masklow | isolsbits | clrlsbits | top | lsbidx | or | and | xor | broadcast | eq
  | ge | gemsboff | bnot | best | bany => exact absurd rfl h

theorem Instr.opcode_of_jValue {instr : Instr} (h : instr.jValue ≠ 0) : instr.opcode = 0x0A := by
  cases instr with
  | set _ _ => rfl
  | zero | pattern _ | topclr | isolsb | clrlsb | masklow | isolsbits | clrlsbits | atLane _ | clear _ | top | lsbidx
  | or | and | xor | broadcast | eq | popcnt _ | ge | gemsboff | bnot | bclear _ | best | bany => exact absurd rfl h

/-- The word's three fields are the instruction's. -/
structure FieldsOf (instr : Instr) (cw : ControlWord) : Prop where
  opc : instr.opcode = opcField cw
  i : instr.iValue = iField cw
  j : instr.jValue = jField cw

theorem FieldsOf.unusedZero {instr : Instr} {cw : ControlWord} (h : FieldsOf instr cw) : UnusedZero cw := by
  rw [UnusedZero, ← h.opc, ← h.i, ← h.j]
  exact ⟨Instr.opcode_of_iValue, Instr.opcode_of_jValue⟩

/-! ### The opcode map -/

/-- Everything the opcode map can answer for a word, with what each answer says of the word's fields (R54, R55). -/
inductive ShapeAnswer (cw : ControlWord) : Except Reject Instr → Prop
  | reserved (h : ¬(opcField cw).toNat ≤ 0x18) : ShapeAnswer cw (.error .reservedOpcode)
  | unusedField (known : (opcField cw).toNat ≤ 0x18) (h : ¬UnusedZero cw) : ShapeAnswer cw (.error .nonZeroUnusedField)
  | instr (instr : Instr) (h : FieldsOf instr cw) : ShapeAnswer cw (.ok instr)

section format
variable {cw : ControlWord}

theorem shapeAnswer_formatZ {instr : Instr} (hopc : opcField cw = instr.opcode)
    (hi : instr.iValue = 0 ∧ instr.opcode ∉ iOpcodes) (hj : instr.jValue = 0 ∧ instr.opcode ≠ 0x0A) :
    ShapeAnswer cw (formatZ cw instr) := by
  unfold formatZ
  split <;> rename_i h
  · exact .instr _ ⟨hopc.symm, hi.1.trans h.1.symm, hj.1.trans h.2.symm⟩
  · refine .unusedField (hopc ▸ instr.opcode_le) fun ⟨hiUse, hjUse⟩ => h ?_
    rw [hopc] at hiUse hjUse
    exact ⟨not_imp_comm.mp hiUse hi.2, not_imp_comm.mp hjUse hj.2⟩

theorem shapeAnswer_formatI {instr : SmallField → Instr} (hopc : opcField cw = (instr (iField cw)).opcode)
    (hi : (instr (iField cw)).iValue = iField cw)
    (hj : (instr (iField cw)).jValue = 0 ∧ (instr (iField cw)).opcode ≠ 0x0A) :
    ShapeAnswer cw (formatI cw instr) := by
  unfold formatI
  split <;> rename_i h
  · exact .instr _ ⟨hopc.symm, hi, hj.1.trans h.symm⟩
  · exact .unusedField (hopc ▸ Instr.opcode_le _) fun hz => hj.2 (hopc ▸ hz.2 h)

end format

theorem decodeShape_answer (cw : ControlWord) : ShapeAnswer cw (decodeShape cw) := by
  unfold decodeShape
  split <;> rename_i h
  -- PATTERN, AT, CLEAR, POPCNT, BCLEAR
  case h_2 | h_9 | h_10 | h_19 | h_23 =>
    exact shapeAnswer_formatI (BitVec.eq_of_toNat_eq h) rfl ⟨rfl, by simp [Instr.opcode]⟩
  -- SET
  case h_11 => exact .instr _ ⟨(BitVec.eq_of_toNat_eq h).symm, rfl, rfl⟩
  -- 0x19 to 0x1F
  case h_26 =>
    simp only [imp_false] at *
    exact .reserved (by omega)
  all_goals exact shapeAnswer_formatZ (BitVec.eq_of_toNat_eq h) ⟨rfl, by decide⟩ ⟨rfl, by decide⟩

theorem decodeShape_fields {cw : ControlWord} {instr : Instr} (h : decodeShape cw = .ok instr) : FieldsOf instr cw := by
  have hanswer := decodeShape_answer cw
  rw [h] at hanswer
  cases hanswer with
  | instr _ hfields => exact hfields

theorem decode_eq_ok {cw : ControlWord} {instr : Instr} :
    decode cw = .ok instr ↔ decodeShape cw = .ok instr ∧ rejectField instr = none := by
  unfold decode
  cases decodeShape cw with
  | error e => simp
  | ok shape =>
    cases hr : rejectField shape with
    | none =>
      simp only [hr, Except.ok.injEq]
      exact ⟨fun h => ⟨h, h ▸ hr⟩, And.left⟩
    | some e =>
      simp only [hr, Except.ok.injEq, reduceCtorEq, false_iff, not_and]
      rintro rfl h
      simp [hr] at h

/-- Settles O8: a field that is not 0 is the decoded instruction's own, so the instruction's format uses it. -/
theorem controlWordLayout : Obligations.ControlWordLayout := by
  refine ⟨fun cw => ⟨opcField_toNat cw, iField_toNat cw, jField_toNat cw⟩, fun instr => packFields_toNat _ _ _,
    fun cw instr h => ?_⟩
  obtain ⟨-, hi, hj⟩ := decodeShape_fields (decode_eq_ok.mp h).1
  rw [← hi, ← hj]
  exact ⟨Instr.opcode_of_jValue, Instr.opcode_of_iValue⟩

end Sys2Proof
end

section
/-! PROOFS. The legal requests of an instance (`30_encoding.md` R55). Conditions 1 and 2 are the opcode map's; conditions 3,
4 and 5 are `legality`'s, said here through the operation code and the field `i`. -/

namespace Sys2Proof

theorem Config.word_le (c : Config) : c.W ≤ 64 := by rcases c.admitted.1 with h | h | h | h <;> omega

namespace Machine

/-! ### Conditions 3, 4 and 5 -/

/-- R55 condition 3, of an operation code and a field `i`. -/
def WidthFits (c : Config) (opc i : Nat) : Prop := opc = 0x01 → i ≤ Nat.log2 c.W

/-- R55 condition 4, of an operation code and a field `i`. -/
def LevelFits (opc i : Nat) : Prop := opc = 0x12 → i ≤ 5

/-- R55 condition 5, of an operation code. -/
def LanesWide (c : Config) (opc : Nat) : Prop := 0x13 ≤ opc ∧ opc ≤ 0x18 → 1 < c.N

section legality
variable {c : Config} {instr : Instr}

theorem two_pow_le_word_iff (c : Config) (i : Nat) : 2 ^ i ≤ c.W ↔ i ≤ Nat.log2 c.W :=
  (Nat.le_log2 c.word_pos.ne').symm

/-- An instruction is legal exactly when it keeps the three conditions (R55). -/
theorem legality_eq_none_iff : legality c instr = none ↔ WidthFits c instr.opcode.toNat instr.iValue.toNat ∧
    LevelFits instr.opcode.toNat instr.iValue.toNat ∧ LanesWide c instr.opcode.toNat := by
  unfold WidthFits LevelFits LanesWide
  cases instr with
  | pattern i => simp [legality, Instr.opcode, Instr.iValue, two_pow_le_word_iff]
  | popcnt level => simp [legality, Instr.opcode, Instr.iValue]
  | ge | gemsboff | bnot | bclear _ | best | bany => simp [legality, Instr.opcode]
  | _ => simp [legality, Instr.opcode]

theorem legality_of_not_widthFits (h : ¬WidthFits c instr.opcode.toNat instr.iValue.toNat) :
    legality c instr = some .patternWidthUnsupported := by
  cases instr with
  | pattern i => exact if_neg fun hle => h fun _ => (two_pow_le_word_iff c _).mp hle
  | _ => simp [WidthFits, Instr.opcode] at h

theorem legality_of_not_levelFits (h : ¬LevelFits instr.opcode.toNat instr.iValue.toNat) :
    legality c instr = some .popLevelReserved := by
  cases instr with
  | popcnt level => exact if_neg fun hle => h fun _ => hle
  | _ => simp [LevelFits, Instr.opcode] at h

theorem legality_of_not_lanesWide (h : ¬LanesWide c instr.opcode.toNat) : legality c instr = some .degenerateLane := by
  cases instr with
  | ge | gemsboff | bnot | bclear _ | best | bany => exact if_neg fun hN => h fun _ => hN
  | _ => simp [LanesWide, Instr.opcode] at h

/-- A field value no instance admits is one this instance refuses, and for the same reason (R55 conditions 3 and 4). -/
theorem legality_of_rejectField {e : Reject} (h : rejectField instr = some e) :
    legality c instr = some (Refusal.ofReject e) := by
  cases instr with
  | pattern i =>
    obtain ⟨hi, rfl⟩ : 6 < i.toNat ∧ .patternWidthUnsupported = e := by simpa [rejectField] using h
    have hwide : 2 ^ 7 ≤ 2 ^ i.toNat := Nat.pow_le_pow_right Nat.two_pos hi
    have hword := c.word_le
    exact if_neg (by omega)
  | popcnt level =>
    obtain ⟨hlevel, rfl⟩ : 5 < level.toNat ∧ .popLevelReserved = e := by simpa [rejectField] using h
    exact if_neg (by omega)
  | _ => simp [rejectField] at h

end legality

/-! ### The request -/

section requestInstr
variable {c : Config} {cw : ControlWord} {instr : Instr}

theorem requestInstr_of_rejected {e : Reject} (h : decodeShape cw = .error e) :
    requestInstr c cw = .error (Refusal.ofReject e) := by
  simp [requestInstr, decode, h]

theorem requestInstr_of_illegal {x : Refusal} (h : decodeShape cw = .ok instr) (hx : legality c instr = some x) :
    requestInstr c cw = .error x := by
  cases hr : rejectField instr with
  | none => simp [requestInstr, decode, h, hr, hx]
  | some e =>
    obtain rfl : Refusal.ofReject e = x := Option.some_inj.mp ((legality_of_rejectField hr).symm.trans hx)
    simp [requestInstr, decode, h, hr]

theorem requestInstr_of_legal (h : decodeShape cw = .ok instr) (hl : legality c instr = none) :
    requestInstr c cw = .ok instr := by
  cases hr : rejectField instr with
  | none => exact requestInstr_eq_ok.mpr ⟨decode_eq_ok.mpr ⟨h, hr⟩, hl⟩
  | some e => simp [legality_of_rejectField hr] at hl

end requestInstr

/-- Settles O9: the opcode map settles conditions 1 and 2; where it names an operation, the word's fields are the
instruction's, so the other three conditions are `legality`'s. -/
theorem requestLegalExactly : Obligations.RequestLegalExactly := by
  intro c cw opc known unusedZero widthFits levelFits lanesWide
  have hunused : UnusedZero cw ↔ unusedZero := unusedZero_iff_toNat cw
  have hanswer := decodeShape_answer cw
  generalize hshape : decodeShape cw = shape at hanswer
  cases hanswer with
  | reserved hreserved =>
    have hrefused : requestInstr c cw = .error .reservedOpcode := requestInstr_of_rejected hshape
    have hunknown : ¬known := hreserved
    simp [hrefused, hunknown]
  | unusedField hknown hfield =>
    have hrefused : requestInstr c cw = .error .nonZeroUnusedField := requestInstr_of_rejected hshape
    have hused : ¬unusedZero := mt hunused.mpr hfield
    have hknown : known := hknown
    simp [hrefused, hused, hknown]
  | instr instr hfields =>
    have hopc : instr.opcode.toNat = opc := congrArg BitVec.toNat hfields.opc
    have hi : instr.iValue.toNat = (iField cw).toNat := congrArg BitVec.toNat hfields.i
    have hknown : known := hopc.ge.trans instr.opcode_le
    have hzero : unusedZero := hunused.mp hfields.unusedZero
    have hlegal := legality_eq_none_iff (c := c) (instr := instr)
    rw [hopc, hi] at hlegal
    refine ⟨⟨fun ⟨j, hj⟩ => ?_, fun ⟨_, _, h⟩ => ⟨instr, requestInstr_of_legal hshape (hlegal.mpr h)⟩⟩,
      absurd hknown, fun _ h => absurd hzero h, fun _ _ h => ?_, fun _ _ h => ?_, fun _ _ h => ?_⟩
    · obtain ⟨hdecode, hnone⟩ := requestInstr_eq_ok.mp hj
      obtain rfl : instr = j := Except.ok.inj (hshape.symm.trans (decode_eq_ok.mp hdecode).1)
      exact ⟨hknown, hzero, hlegal.mp hnone⟩
    · exact requestInstr_of_illegal hshape (legality_of_not_widthFits (by rwa [hopc, hi]))
    · exact requestInstr_of_illegal hshape (legality_of_not_levelFits (by rwa [hopc, hi]))
    · exact requestInstr_of_illegal hshape (legality_of_not_lanesWide (by rwa [hopc]))

end Machine
end Sys2Proof
end

section
/-! PROOFS. The lowest set bit (`41_bitisolation.md` R100, R101, R102): which bits of the word the two operations keep. -/

namespace Sys2Proof.Machine

section lowestBit
variable {W : Nat} (v : BitVec W)

/-! ### The two parts of a word (R102) -/

theorem isolateLowest_or_clearLowest : isolateLowest v ||| clearLowest v = v := by
  refine BitVec.eq_of_getLsbD_eq fun q hq => ?_
  simp only [isolateLowest, clearLowest, BitVec.getLsbD_or, BitVec.getLsbD_and, BitVec.getLsbD_not, hq]
  cases v.getLsbD q <;> simp

theorem isolateLowest_and_clearLowest : isolateLowest v &&& clearLowest v = 0 := by
  rw [isolateLowest, BitVec.and_assoc, BitVec.and_comm (~~~_), BitVec.and_not_self]
  exact BitVec.and_zero

/-- The parts share no bit, so their OR is their sum. -/
theorem isolateLowest_toNat_add_clearLowest_toNat : (isolateLowest v).toNat + (clearLowest v).toNat = v.toNat := by
  have hdisjoint := isolateLowest_and_clearLowest v
  rw [← BitVec.toNat_add_of_and_eq_zero hdisjoint, BitVec.add_eq_or_of_and_eq_zero _ _ hdisjoint,
    isolateLowest_or_clearLowest]

/-! ### The parts bit by bit -/

/-- `v - 1` is `~~~(-v)`, and negation flips exactly the bits above the lowest set bit: those CLRLSB keeps. -/
theorem getLsbD_clearLowest (q : Nat) :
    (clearLowest v).getLsbD q = (v.getLsbD q && decide (∃ j < q, v.getLsbD j = true)) := by
  have hpred : v - 1 = ~~~(-v) := (BitVec.not_neg v).symm
  by_cases hq : q < W
  · rw [clearLowest, hpred, BitVec.getLsbD_and, BitVec.getLsbD_not, BitVec.getLsbD_neg]
    cases v.getLsbD q <;> simp [hq]
  · simp [BitVec.getLsbD_of_ge _ q (Nat.le_of_not_lt hq)]

theorem getLsbD_isolateLowest (q : Nat) :
    (isolateLowest v).getLsbD q = (v.getLsbD q && !decide (∃ j < q, v.getLsbD j = true)) := by
  by_cases hq : q < W
  · rw [isolateLowest, BitVec.getLsbD_and, BitVec.getLsbD_not, getLsbD_clearLowest]
    cases v.getLsbD q <;> simp [hq]
  · simp [BitVec.getLsbD_of_ge _ q (Nat.le_of_not_lt hq)]

variable {v} {p : Nat}

theorem isolateLowest_eq_oneBit (h : ctz? v = some p) : isolateLowest v = oneBit W p := by
  obtain ⟨hp, hbelow⟩ := ctz?_eq_some.mp h
  refine BitVec.eq_of_getLsbD_eq fun q hq => ?_
  rw [getLsbD_isolateLowest, getLsbD_oneBit]
  rcases Nat.lt_trichotomy q p with hlt | rfl | hgt
  · simp [hbelow q hlt, hlt.ne']
  · simpa [hp, hq] using hbelow
  · simpa [hgt.ne] using fun _ => ⟨p, hgt, hp⟩

theorem isolateLowest_toNat (h : ctz? v = some p) : (isolateLowest v).toNat = 2 ^ p := by
  rw [isolateLowest_eq_oneBit h, oneBit, BitVec.toNat_twoPow_of_lt (BitVec.lt_of_getLsbD (ctz?_eq_some.mp h).1)]

theorem clearLowest_toNat (h : ctz? v = some p) : (clearLowest v).toNat + 2 ^ p = v.toNat := by
  rw [← isolateLowest_toNat h, Nat.add_comm, isolateLowest_toNat_add_clearLowest_toNat]

end lowestBit

theorem clearLowest_zero (W : Nat) : clearLowest (0 : BitVec W) = 0 := BitVec.zero_and

theorem isolateLowest_zero (W : Nat) : isolateLowest (0 : BitVec W) = 0 := BitVec.zero_and

/-! ### The operations -/

theorem answers_isolsb (s : State) : Answers .isolsb s (isolateLowest s.a) := deliver_eq s _

theorem answers_clrlsb (s : State) : Answers .clrlsb s (clearLowest s.a) := deliver_eq s _

/-- Settles O25: a word that is not 0 has a lowest set bit p; ISOLSB keeps bit p alone, and CLRLSB the rest of the sum. -/
theorem lowestBitIsolatedAndCleared : Obligations.LowestBitIsolatedAndCleared := by
  refine fun s => ⟨⟨rfl, rfl⟩, ⟨rfl, rfl⟩, rfl, rfl, fun hzero => ?_, fun hne => ?_⟩
  · have hisolsb := answers_isolsb s
    have hclrlsb := answers_clrlsb s
    rw [hzero, isolateLowest_zero] at hisolsb
    rw [hzero, clearLowest_zero] at hclrlsb
    exact ⟨hisolsb, hclrlsb⟩
  · obtain ⟨p, hctz⟩ := Option.ne_none_iff_exists'.mp (mt ctz?_eq_none.mp hne)
    obtain ⟨hp, hbelow⟩ := ctz?_eq_some.mp hctz
    exact ⟨p, hp, hbelow, ⟨_, answers_isolsb s, isolateLowest_toNat hctz⟩,
      ⟨_, answers_clrlsb s, clearLowest_toNat hctz⟩⟩

/-- Settles O26: CLRLSB answers the bits of the word inside `v & (v - 1)`, ISOLSB those outside it. -/
theorem lowestBitPartition : Obligations.LowestBitPartition := fun s =>
  ⟨_, _, answers_isolsb s, answers_clrlsb s, isolateLowest_or_clearLowest s.a, isolateLowest_and_clearLowest s.a⟩

end Sys2Proof.Machine
end

section
/-! PROOFS. The control word of an instruction reads back as the instruction (`30_encoding.md` R51, R54). -/

namespace Sys2Proof

theorem decodeShape_encode (instr : Instr) : decodeShape (encode instr) = .ok instr := by
  obtain ⟨hopc, hi, hj⟩ := Laws.Fields.of_packFields instr
  rw [decodeShape, hopc]
  cases instr with
  | zero | topclr | isolsb | clrlsb | masklow | isolsbits | clrlsbits | top | lsbidx | or | and | xor | broadcast | eq
  | ge | gemsboff | bnot | best | bany => rfl
  | pattern _ | atLane _ | clear _ | popcnt _ | bclear _ =>
    simp [Instr.opcode, formatI, hi, hj, Instr.iValue, Instr.jValue]
  | set _ _ => simp [Instr.opcode, formatIJ, hi, hj, Instr.iValue, Instr.jValue]

theorem decode_encode {instr : Instr} (h : rejectField instr = none) : decode (encode instr) = .ok instr :=
  decode_eq_ok.mpr ⟨decodeShape_encode instr, h⟩

/-- R51's formula gives the control word of every instruction whose fields the decoder does not reject (R55). -/
theorem Machine.encodes_formula {instr : Instr} (h : rejectField instr = none) :
    Encodes (instr.opcode.toNat + 32 * instr.iValue.toNat + 2048 * instr.jValue.toNat) instr := by
  have hword : encode instr =
      BitVec.ofNat 17 (instr.opcode.toNat + 32 * instr.iValue.toNat + 2048 * instr.jValue.toNat) := by
    rw [← packFields_toNat, BitVec.ofNat_toNat, BitVec.setWidth_eq, encode]
  exact ⟨hword, hword ▸ decode_encode h⟩

end Sys2Proof
end

section
/-! PROOFS. The lanes of a word as numbers (`10_state.md` R23): which bits make a lane, and what writing one bit or
clearing one lane does to each of them. -/

namespace Sys2Proof.Machine

/-! ### The lane of a bit -/

theorem bit_lane {N b : Nat} (k : Nat) (hb : b < N) : (k * N + b) / N = k := by
  rw [Nat.mul_comm, Nat.mul_add_div (by omega), Nat.div_eq_of_lt hb, Nat.add_zero]

/-- A lane and a place in it make the position of one bit only (R23). -/
theorem bit_position_inj {N b j k i : Nat} (hb : b < N) (hj : j < N) : k * N + b = i * N + j ↔ k = i ∧ b = j := by
  constructor
  · intro h
    obtain rfl : k = i := by rw [← bit_lane k hb, h, bit_lane i hj]
    exact ⟨rfl, by omega⟩
  · rintro ⟨rfl, rfl⟩
    rfl

theorem bit_lt_word (c : Config) {k b : Nat} (hk : k < c.L) (hb : b < c.N) : k * c.N + b < c.W := by
  have := lane_end_le c hk
  omega

theorem bit_lane_lt (c : Config) {p : Nat} (hp : p < c.W) : p / c.N < c.L := by
  rwa [Nat.div_lt_iff_lt_mul c.lane_pos, c.lanes_mul_width]

/-- A lane is 0 exactly when every bit in it is 0 (R23). -/
theorem laneNat_eq_zero_iff {W N : Nat} (hN : 0 < N) (v : BitVec W) (k : Nat) :
    laneNat N v k = 0 ↔ ∀ q, q / N = k → v.getLsbD q = false := by
  constructor
  · rintro h q rfl
    have hbit := testBit_laneNat N v (q / N) (q % N)
    simpa [h, Nat.mod_lt q hN, Nat.div_add_mod'] using hbit.symm
  · intro h
    refine Nat.zero_of_testBit_eq_false fun b => ?_
    rw [testBit_laneNat]
    by_cases hb : b < N
    · simp [h _ (bit_lane k hb)]
    · simp [hb]

theorem laneNat_ne_zero {W N : Nat} (hN : 0 < N) {v : BitVec W} {p : Nat} (hp : v.getLsbD p = true) :
    laneNat N v (p / N) ≠ 0 := fun h => by
  simpa [hp] using (laneNat_eq_zero_iff hN v _).mp h p rfl

/-- The lane of the highest set bit is the highest lane that is not 0 (R124). -/
theorem highestLane_of_msb {c : Config} {v : BitVec c.W} {p : Nat} (h : msb? v = some p) :
    p / c.N < c.L ∧ laneNat c.N v (p / c.N) ≠ 0 ∧ ∀ m, p / c.N < m → laneNat c.N v m = 0 := by
  obtain ⟨hp, habove⟩ := msb?_eq_some.mp h
  refine ⟨bit_lane_lt c (BitVec.lt_of_getLsbD hp), laneNat_ne_zero c.lane_pos hp, fun m hm => ?_⟩
  refine (laneNat_eq_zero_iff c.lane_pos v m).mpr ?_
  rintro q rfl
  exact habove q (Nat.lt_of_div_lt_div hm)

/-- The lane of the lowest set bit is the lowest lane that is not 0 (R104). -/
theorem lowestLane_of_ctz {c : Config} {v : BitVec c.W} {p : Nat} (h : ctz? v = some p) :
    p / c.N < c.L ∧ laneNat c.N v (p / c.N) ≠ 0 ∧ ∀ m < p / c.N, laneNat c.N v m = 0 := by
  obtain ⟨hp, hbelow⟩ := ctz?_eq_some.mp h
  refine ⟨bit_lane_lt c (BitVec.lt_of_getLsbD hp), laneNat_ne_zero c.lane_pos hp, fun m hm => ?_⟩
  refine (laneNat_eq_zero_iff c.lane_pos v m).mpr ?_
  rintro q rfl
  exact hbelow q (Nat.lt_of_div_lt_div hm)

/-- A lane index fits a result word: nothing of it is cut off (R124, R125). -/
theorem laneIndex_toNat (c : Config) {k : Nat} (hk : k < c.L) : (BitVec.ofNat c.W k).toNat = k := by
  have hL : c.L ≤ c.W := Nat.div_le_self c.W c.N
  have hW : c.W < 2 ^ c.W := Nat.lt_two_pow_self
  rw [BitVec.toNat_ofNat, Nat.mod_eq_of_lt (by omega)]

/-- A number of N bits that has the bits of lane k is lane k (R23). -/
theorem laneNat_eq_of_bits {W N k x : Nat} {v : BitVec W} (hx : x < 2 ^ N)
    (hbits : ∀ b < N, v.getLsbD (k * N + b) = x.testBit b) : laneNat N v k = x := by
  refine Nat.eq_of_testBit_eq fun b => ?_
  rw [testBit_laneNat]
  by_cases hb : b < N
  · simp [hb, hbits]
  · have hhigh : x.testBit b = false :=
      Nat.testBit_lt_two_pow (hx.trans_le (Nat.pow_le_pow_right Nat.two_pos (Nat.le_of_not_lt hb)))
    simp [hb, hhigh]

theorem getLsbD_eq_testBit_laneNat {W N b : Nat} (v : BitVec W) (k : Nat) (hb : b < N) :
    v.getLsbD (k * N + b) = (laneNat N v k).testBit b := by
  simp [testBit_laneNat, hb]

/-! ### One bit set, one lane cleared -/

theorem getLsbD_or_oneBit {W : Nat} (v : BitVec W) (p : Nat) {n : Nat} (hn : n < W) :
    (v ||| oneBit W p).getLsbD n = (v.getLsbD n || decide (n = p)) := by
  simp only [BitVec.getLsbD_or, getLsbD_oneBit, hn, decide_true, Bool.true_and, eq_comm]

theorem getLsbD_and_not_laneMask {W N : Nat} (hN : 0 < N) (v : BitVec W) (i : Nat) {n : Nat} (hn : n < W) :
    (v &&& ~~~laneMask W N i).getLsbD n = (v.getLsbD n && decide (n / N ≠ i)) := by
  have hlane : n / N = i ↔ i * N ≤ n ∧ n < i * N + N := by
    rw [Nat.div_eq_iff hN]
    omega
  simp only [BitVec.getLsbD_and, BitVec.getLsbD_not, getLsbD_laneMask, hn, decide_true, Bool.true_and, ne_eq,
    decide_not, hlane, Bool.decide_and]

/-- Setting bit j of lane i changes that lane alone (R131). -/
theorem laneNat_or_oneBit (c : Config) (v : BitVec c.W) {i j k : Nat} (hj : j < c.N) (hk : k < c.L) :
    laneNat c.N (v ||| oneBit c.W (i * c.N + j)) k =
      if k = i then laneNat c.N v k ||| 2 ^ j else laneNat c.N v k := by
  have hbit {b : Nat} (hb : b < c.N) : (v ||| oneBit c.W (i * c.N + j)).getLsbD (k * c.N + b) =
      ((laneNat c.N v k).testBit b || decide (k = i ∧ b = j)) := by
    rw [getLsbD_or_oneBit v _ (bit_lt_word c hk hb), getLsbD_eq_testBit_laneNat v k hb,
      decide_eq_decide.mpr (bit_position_inj hb hj)]
  split <;> rename_i hki
  · refine laneNat_eq_of_bits (Nat.or_lt_two_pow (laneNat_lt _ v k) (Nat.pow_lt_pow_right Nat.one_lt_two hj))
      fun b hb => ?_
    rw [hbit hb, Nat.testBit_or, Nat.testBit_two_pow]
    simp [hki, eq_comm]
  · exact laneNat_eq_of_bits (laneNat_lt _ v k) fun b hb => (hbit hb).trans (by simp [hki])

/-- Clearing lane i leaves 0 in it and every other lane as it was (R131). -/
theorem laneNat_and_not_laneMask (c : Config) (v : BitVec c.W) (i : Nat) {k : Nat} (hk : k < c.L) :
    laneNat c.N (v &&& ~~~laneMask c.W c.N i) k = if k = i then 0 else laneNat c.N v k := by
  have hbit {b : Nat} (hb : b < c.N) : (v &&& ~~~laneMask c.W c.N i).getLsbD (k * c.N + b) =
      ((laneNat c.N v k).testBit b && decide (k ≠ i)) := by
    rw [getLsbD_and_not_laneMask c.lane_pos v i (bit_lt_word c hk hb), bit_lane k hb,
      getLsbD_eq_testBit_laneNat v k hb]
  split <;> rename_i hki
  · exact laneNat_eq_of_bits (Nat.two_pow_pos _) fun b hb => (hbit hb).trans (by simp [hki])
  · exact laneNat_eq_of_bits (laneNat_lt _ v k) fun b hb => (hbit hb).trans (by simp [hki])

/-! ### A pattern of one lane -/

/-- Every lane of `PAT(p, N)` is p (R80). -/
theorem laneNat_of_pat {c : Config} {p v : BitVec c.W} (h : pat? p c.N = some v) {k : Nat} (hk : k < c.L) :
    laneNat c.N v k = p.toNat := by
  obtain ⟨-, hfits, hbits⟩ := pat?_eq_some.mp h
  refine laneNat_eq_of_bits hfits fun b hb => ?_
  rw [hbits, decide_eq_true (bit_lt_word c hk hb), Bool.true_and, Nat.mul_add_mod', Nat.mod_eq_of_lt hb,
    BitVec.testBit_toNat]

/-- `PAT(p, N)` is the product of p with ONES, which does not overflow (R83, R129). -/
theorem toNat_of_pat {c : Config} {p v : BitVec c.W} (h : pat? p c.N = some v) :
    v.toNat = p.toNat * (ones c).toNat := by
  have hone : (1 : BitVec c.W).toNat = 1 := Nat.mod_eq_of_lt (Nat.one_lt_two_pow c.word_pos.ne')
  rw [toNat_eq_sum_lanes c v, toNat_eq_sum_lanes c (ones c), Finset.mul_sum]
  refine Finset.sum_congr rfl fun k hk => ?_
  have hk := Finset.mem_range.mp hk
  rw [laneNat_of_pat h hk, laneNat_of_pat (pat?_ones c) hk, hone, one_mul]

/-- The word product of a lane value with ONES has the value in every lane (R129). -/
theorem mul_ones_of_pat {c : Config} {p v : BitVec c.W} (h : pat? p c.N = some v) : p * ones c = v :=
  BitVec.eq_of_toNat_eq (by rw [BitVec.toNat_mul, ← toNat_of_pat h, Nat.mod_eq_of_lt v.isLt])

end Sys2Proof.Machine
end

section
/-! PROOFS. The operations of the Lane-Packed Word (`42_lane_word.md`): what each answers, and when it faults (R211); then
the statements. -/

namespace Sys2Proof.Machine

theorem flagWord_toNat (c : Config) (b : Bool) : (flagWord c.W b).toNat = if b then 1 else 0 := by
  cases b with
  | false => exact Nat.zero_mod _
  | true => exact Nat.mod_eq_of_lt (Nat.one_lt_two_pow c.word_pos.ne')

section operations
variable (s : State) {i j : SmallField}

/-! ### Constants and bitwise operations -/

theorem answers_zero : Answers .zero s 0 := deliver_eq s _

theorem answers_topclr : Answers .topclr s (lowMask s.cfg.W (s.cfg.W - s.cfg.W % s.cfg.N)) := deliver_eq s _

theorem answers_masklow : Answers .masklow s (lowMask s.cfg.W s.cfg.N) := deliver_eq s _

theorem answers_or : Answers .or s (s.a ||| s.b) := deliver_eq s _

theorem answers_and : Answers .and s (s.a &&& s.b) := deliver_eq s _

theorem answers_xor : Answers .xor s (s.a ^^^ s.b) := deliver_eq s _

theorem answers_eq : Answers .eq s (flagWord s.cfg.W (s.a == s.b)) := deliver_eq s _

/-! ### One lane -/

variable {s}

theorem answers_atLane (hi : i.toNat < s.cfg.L) : Answers (.atLane i) s (lane s.cfg.N s.a i.toNat) :=
  requireLane_of_lt hi

theorem atLane_fault (hi : s.cfg.L ≤ i.toNat) : exec (.atLane i) s = .fault (.laneIndexOutOfRange i.toNat) :=
  requireLane_of_ge hi

theorem answers_clear (hi : i.toNat < s.cfg.L) : Answers (.clear i) s (s.a &&& ~~~laneMask s.cfg.W s.cfg.N i.toNat) :=
  requireLane_of_lt hi

theorem clear_fault (hi : s.cfg.L ≤ i.toNat) : exec (.clear i) s = .fault (.laneIndexOutOfRange i.toNat) :=
  requireLane_of_ge hi

theorem answers_set (hi : i.toNat < s.cfg.L) (hj : j.toNat < s.cfg.N) :
    Answers (.set i j) s (s.a ||| oneBit s.cfg.W (i.toNat * s.cfg.N + j.toNat)) :=
  (requireLane_of_lt hi).trans (require_of_pos hj)

theorem set_fault_lane (hi : s.cfg.L ≤ i.toNat) : exec (.set i j) s = .fault (.laneIndexOutOfRange i.toNat) :=
  requireLane_of_ge hi

theorem set_fault_bit (hi : i.toNat < s.cfg.L) (hj : s.cfg.N ≤ j.toNat) :
    exec (.set i j) s = .fault (.bitPositionOutOfRange j.toNat) :=
  (requireLane_of_lt hi).trans (require_of_neg (Nat.not_lt.mpr hj))

/-! ### The lane of the highest and of the lowest set bit -/

theorem answers_top {p : Nat} (hp : msb? s.a = some p) : Answers .top s (BitVec.ofNat s.cfg.W (p / s.cfg.N)) := by
  simp [Answers, exec, execTop, topLane?, hp]

theorem top_fault (h : s.a = 0) : exec .top s = .fault .zeroOperand := by
  simp [exec, execTop, topLane?, msb?_eq_none.mpr h]

theorem answers_lsbidx {p : Nat} (hp : ctz? s.a = some p) : Answers .lsbidx s (BitVec.ofNat s.cfg.W (p / s.cfg.N)) := by
  simp [Answers, exec, execLsbidx, lsbLane?, hp]

theorem lsbidx_fault (h : s.a = 0) : exec .lsbidx s = .fault .zeroOperand := by
  simp [exec, execLsbidx, lsbLane?, ctz?_eq_none.mpr h]

/-! ### BROADCAST -/

theorem lane_zero_eq_self {W N : Nat} {v : BitVec W} (h : v.toNat < 2 ^ N) : lane N v 0 = v :=
  BitVec.eq_of_toNat_eq (by simp [lane_toNat, laneNat, Nat.mod_eq_of_lt h])

/-- BROADCAST answers the pattern of one lane (R129, R80). -/
theorem answers_broadcast {v : BitVec s.cfg.W} (h : pat? s.a s.cfg.N = some v) : Answers .broadcast s v := by
  have hfits := (pat?_eq_some.mp h).2.1
  rw [Answers, exec, execBroadcast, require_of_pos hfits, lane_zero_eq_self hfits, mul_ones_of_pat h, deliver_eq]

theorem broadcast_fault (h : 2 ^ s.cfg.N ≤ s.a.toNat) :
    exec .broadcast s = .fault (.broadcastOperandTooWide s.a.toNat) := require_of_neg (Nat.not_lt.mpr h)

end operations

/-! ### The statements -/

/-- Settles O28: the lane of the word operations is the lane of the naturals (`lane_toNat`). -/
theorem atReadsLane : Obligations.AtReadsLane := by
  intro i s
  exact ⟨encodes_formula (instr := .atLane i) rfl, rfl, fun hi => ⟨_, answers_atLane hi, lane_toNat ..⟩, atLane_fault⟩

/-- Settles O29: the mask of lane i has exactly the bits n with n div N = i. -/
theorem clearZeroesLane : Obligations.ClearZeroesLane := by
  intro i s
  exact ⟨encodes_formula (instr := .clear i) rfl, rfl,
    fun hi => ⟨_, answers_clear hi, fun _ hn => getLsbD_and_not_laneMask s.cfg.lane_pos s.a i.toNat hn⟩, clear_fault⟩

/-- Settles O30: the lane index is checked before the bit position, whatever that is (R213). -/
theorem setSetsOneBit : Obligations.SetSetsOneBit := by
  intro i j s
  exact ⟨encodes_formula (instr := .set i j) rfl, rfl,
    fun hi hj => ⟨_, answers_set hi hj, fun _ hn => getLsbD_or_oneBit s.a _ hn⟩, set_fault_lane, set_fault_bit⟩

/-- Settles O31: AT of the two answers, through the lanes of the words SET and CLEAR build. -/
theorem setAndClearTouchOneLane : Obligations.SetAndClearTouchOneLane := by
  intro i j k s hi hj hk
  refine ⟨_, _, _, _, _, answers_set hi hj, answers_clear hi, answers_atLane hk, answers_atLane hk, answers_atLane hk,
    ?_, ?_⟩
  · simp only [lane_toNat, laneNat_or_oneBit s.cfg s.a hj hk, BitVec.toNat_inj]
  · simp only [lane_toNat, laneNat_and_not_laneMask s.cfg s.a i.toNat hk, BitVec.toNat_inj]

/-- Settles O32: a word that is not 0 has a highest set bit p, and the lane of p is the highest that is not 0. -/
theorem topAnswersHighestLane : Obligations.TopAnswersHighestLane := by
  refine fun s => ⟨⟨rfl, rfl⟩, rfl, fun hne => ?_, top_fault⟩
  obtain ⟨p, hmsb⟩ := Option.ne_none_iff_exists'.mp (mt msb?_eq_none.mp hne)
  obtain ⟨hp, habove⟩ := msb?_eq_some.mp hmsb
  have hlane := highestLane_of_msb hmsb
  refine ⟨p, _, hp, habove, answers_top hmsb, ?_⟩
  rw [laneIndex_toNat s.cfg hlane.1]
  exact ⟨rfl, hlane⟩

/-- Settles O33: a word that is not 0 has a lowest set bit p, and the lane of p is the lowest that is not 0. -/
theorem lsbidxAnswersLowestLane : Obligations.LsbidxAnswersLowestLane := by
  refine fun s => ⟨⟨rfl, rfl⟩, rfl, fun hne => ?_, lsbidx_fault⟩
  obtain ⟨p, hctz⟩ := Option.ne_none_iff_exists'.mp (mt ctz?_eq_none.mp hne)
  obtain ⟨hp, hbelow⟩ := ctz?_eq_some.mp hctz
  have hlane := lowestLane_of_ctz hctz
  refine ⟨p, _, hp, hbelow, answers_lsbidx hctz, ?_⟩
  rw [laneIndex_toNat s.cfg hlane.1]
  exact ⟨rfl, hlane⟩

/-- Settles O35: the answer is the operand's lane pattern: every lane of it is the operand, and it is the product. -/
theorem broadcastFillsLanes : Obligations.BroadcastFillsLanes := by
  refine fun s => ⟨⟨rfl, rfl⟩, rfl, fun hfits => ?_, broadcast_fault⟩
  obtain ⟨v, hv⟩ := Option.isSome_iff_exists.mp (pat?_isSome (laneWidth_supported s.cfg) hfits)
  exact ⟨v, answers_broadcast hv, toNat_of_pat hv, fun k hk => laneNat_of_pat hv hk⟩

/-- Settles O24: N divides W, so TOPCLR's mask has all W bits; a mask of at most W bits is not cut off. -/
theorem constantOperationsAnswer : Obligations.ConstantOperationsAnswer := by
  refine fun s => ⟨⟨rfl, rfl⟩, ⟨rfl, rfl⟩, ⟨rfl, rfl⟩, rfl, rfl, rfl, answers_zero s,
    ⟨_, answers_topclr s, lowMask_toNat (Nat.sub_le ..), ?_⟩, ⟨_, answers_masklow s, lowMask_toNat s.cfg.lane_le_word⟩⟩
  refine BitVec.eq_of_toNat_eq ?_
  rw [lowMask_toNat (Nat.sub_le ..), Nat.mod_eq_zero_of_dvd s.cfg.lane_dvd, Nat.sub_zero, BitVec.toNat_allOnes]

/-- Settles O34: bit n of each answer is the operation on bit n of the operands. -/
theorem bitwiseOperationsCombine : Obligations.BitwiseOperationsCombine := fun s =>
  ⟨⟨rfl, rfl⟩, ⟨rfl, rfl⟩, ⟨rfl, rfl⟩, rfl, rfl, rfl, ⟨_, answers_or s, fun _ => BitVec.getLsbD_or⟩,
    ⟨_, answers_and s, fun _ => BitVec.getLsbD_and⟩, ⟨_, answers_xor s, fun _ => BitVec.getLsbD_xor⟩⟩

/-- Settles O36: two words are equal exactly when their bits below W are. -/
theorem eqComparesAllBits : Obligations.EqComparesAllBits := by
  refine fun s => ⟨⟨rfl, rfl⟩, rfl, _, answers_eq s, ?_⟩
  have hbits : s.a = s.b ↔ ∀ n < s.cfg.W, s.a.getLsbD n = s.b.getLsbD n :=
    ⟨fun h n _ => h ▸ rfl, BitVec.eq_of_getLsbD_eq⟩
  simp only [flagWord_toNat, beq_iff_eq, hbits]

end Sys2Proof.Machine
end

section
/-! PROOFS. Words packed from one number for each lane (`10_state.md` R23): the sum of the numbers at their places, which
is also their OR, and the lanes of which are the numbers. -/

namespace Sys2Proof.Machine

/-- The sum of `f 0`, ..., `f (n-1)`, each at its lane, on naturals and then cut to W bits: the form of R150's sum. -/
def packLanes (W N : Nat) (f : Nat → Nat) (n : Nat) : BitVec W :=
  BitVec.ofNat W (∑ g ∈ Finset.range n, f g * 2 ^ (g * N))

theorem sumWords_ofNat (W : Nat) (f : Nat → Nat) (n : Nat) :
    sumWords (fun g => BitVec.ofNat W (f g)) n = BitVec.ofNat W (∑ g ∈ Finset.range n, f g) := by
  induction n with
  | zero => rfl
  | succ n ih => rw [sumWords, ih, Finset.sum_range_succ, BitVec.ofNat_add]

theorem packLanes_congr (W N : Nat) {f f' : Nat → Nat} {n : Nat} (h : ∀ g < n, f g = f' g) :
    packLanes W N f n = packLanes W N f' n := by
  rw [packLanes, packLanes, Finset.sum_congr rfl fun g hg => by rw [h g (Finset.mem_range.mp hg)]]

theorem packLanes_add_packLanes (W N : Nat) (f f' : Nat → Nat) (n : Nat) :
    packLanes W N f n + packLanes W N f' n = packLanes W N (fun g => f g + f' g) n := by
  simp only [packLanes, ← BitVec.ofNat_add, ← Finset.sum_add_distrib, Nat.add_mul]

/-- A word is packed from its own lanes (R23). -/
theorem packLanes_laneNat {W N n : Nat} (hn : n * N = W) (v : BitVec W) : packLanes W N (laneNat N v) n = v := by
  rw [packLanes, ← toNat_mod_eq_sum_lanes, hn, Nat.mod_eq_of_lt v.isLt, BitVec.ofNat_toNat, BitVec.setWidth_eq]

theorem lane_bit_lt_mul {N k n b : Nat} (hk : k < n) (hb : b < N) : k * N + b < n * N :=
  calc k * N + b
    _ < k * N + N := Nat.add_lt_add_left hb _
    _ = (k + 1) * N := (Nat.succ_mul k N).symm
    _ ≤ n * N := Nat.mul_le_mul_right N hk

/-- A number of N bits put at lane i has its bits in that lane and in no other. -/
theorem getLsbD_ofNat_shiftLeft {W N x b k : Nat} (i : Nat) (hx : x < 2 ^ N) (hb : b < N) (hp : k * N + b < W) :
    (BitVec.ofNat W x <<< (i * N)).getLsbD (k * N + b) = (decide (i = k) && x.testBit b) := by
  rw [BitVec.getLsbD_shiftLeft, BitVec.getLsbD_ofNat]
  rcases Nat.lt_trichotomy i k with hlt | rfl | hgt
  · have habove : N ≤ k * N + b - i * N := by
      have hnext : (i + 1) * N ≤ k * N := Nat.mul_le_mul_right N hlt
      rw [Nat.succ_mul] at hnext
      omega
    have hhigh : x.testBit (k * N + b - i * N) = false :=
      Nat.testBit_lt_two_pow (hx.trans_le (Nat.pow_le_pow_right Nat.two_pos habove))
    simp [hhigh, hlt.ne]
  · simp [hp, show b < W by omega]
  · simp [lane_bit_lt_mul hgt hb, hgt.ne']

section fits
variable {W N : Nat} {f : Nat → Nat} (hN : 0 < N) (hf : ∀ g, f g < 2 ^ N)
include hN hf

/-- Numbers of N bits put at their lanes share no bit, so their sum is their OR (R155). -/
theorem packLanes_eq_orWords (n : Nat) : packLanes W N f n = orWords (fun g => BitVec.ofNat W (f g) <<< (g * N)) n := by
  have hplaced (g : Nat) : BitVec.ofNat W (f g) <<< (g * N) = BitVec.ofNat W (f g * 2 ^ (g * N)) :=
    BitVec.eq_of_toNat_eq (by simp [Nat.shiftLeft_eq])
  rw [← sumWords_eq_orWords, packLanes, ← sumWords_ofNat, funext hplaced]
  intro i _ j _ hij
  refine BitVec.eq_of_getLsbD_eq fun p hp => ?_
  rw [← Nat.div_add_mod' p N] at hp ⊢
  have hb := Nat.mod_lt p hN
  rw [BitVec.getLsbD_and, getLsbD_ofNat_shiftLeft i (hf i) hb hp, getLsbD_ofNat_shiftLeft j (hf j) hb hp]
  by_cases hi : i = p / N
  · simp [hi ▸ hij.symm]
  · simp [hi]

/-- Lane k of a word packed from numbers of N bits is the k-th number: nothing runs over into another lane. -/
theorem laneNat_packLanes {n k : Nat} (hn : n * N ≤ W) (hk : k < n) : laneNat N (packLanes W N f n) k = f k := by
  rw [packLanes_eq_orWords hN hf]
  refine laneNat_eq_of_bits (hf k) fun b hb => ?_
  have hp : k * N + b < W := (lane_bit_lt_mul hk hb).trans_le hn
  rw [Bool.eq_iff_iff, getLsbD_orWords]
  simp only [getLsbD_ofNat_shiftLeft _ (hf _) hb hp]
  simp [hk]

end fits

end Sys2Proof.Machine
end

section
/-! PROOFS. The population count of 64 bits (`43_popcount.md` R150 to R157). The reference, the hardware-assisted path and
every stage of the logic tree are each the word packed from the groups' counts, so no carry is followed through a word. -/

namespace Sys2Proof.Machine

/-! ### The number of 1 bits in a group -/

theorem onesAmong_le {W : Nat} (v : BitVec W) (lo n : Nat) : onesAmong v lo n ≤ n := by
  simpa [onesAmong] using List.length_filter_le (fun q => v.getLsbD (lo + q)) (List.range n)

/-- The count of a group of n bits is a number of n bits. -/
theorem onesAmong_lt_two_pow {W : Nat} (v : BitVec W) (lo n : Nat) : onesAmong v lo n < 2 ^ n :=
  (onesAmong_le v lo n).trans_lt Nat.lt_two_pow_self

theorem onesAmong_add {W : Nat} (v : BitVec W) (lo m n : Nat) :
    onesAmong v lo (m + n) = onesAmong v lo m + onesAmong v (lo + m) n := by
  simp [onesAmong, List.range_add, List.filter_map, Function.comp_def, Nat.add_assoc]

theorem onesAmong_congr {W W' : Nat} {v : BitVec W} {v' : BitVec W'} (h : ∀ p, v.getLsbD p = v'.getLsbD p) (lo n : Nat) :
    onesAmong v lo n = onesAmong v' lo n := by
  simp only [onesAmong, h]

/-- Bits above the word count nothing. -/
theorem onesAmong_of_word_le {W n : Nat} (v : BitVec W) (h : W ≤ n) : onesAmong v 0 n = onesAmong v 0 W := by
  obtain ⟨m, rfl⟩ := Nat.exists_eq_add_of_le h
  rw [onesAmong_add]
  simp [onesAmong]

theorem popc_group (lvl : Nat) (v : BitVec 64) (g : Nat) :
    popc (group lvl v g) = onesAmong v (g * 2 ^ (lvl + 1)) (2 ^ (lvl + 1)) := by
  rw [popc, onesAmong, List.countP_eq_length_filter]
  refine congrArg List.length (List.filter_congr fun q hq => ?_)
  have hq : q < 2 ^ (lvl + 1) := List.mem_range.mp hq
  simp [group, groupWidth, hq]

/-- A 1-bit lane is its own count. -/
theorem laneNat_one_eq_onesAmong {W : Nat} (v : BitVec W) (g : Nat) : laneNat 1 v g = onesAmong v g 1 := by
  refine laneNat_eq_of_bits (onesAmong_lt_two_pow v g 1) fun b hb => ?_
  obtain rfl : b = 0 := by omega
  cases h : v.getLsbD g <;> simp [onesAmong, h]

/-! ### The reference and the hardware-assisted path -/

/-- The counts of the groups of 2^k bits, packed (R150). -/
def packedCounts (k : Nat) (v : BitVec 64) : BitVec 64 :=
  packLanes 64 (2 ^ k) (fun g => onesAmong v (g * 2 ^ k) (2 ^ k)) (64 / 2 ^ k)

theorem groups_mul_width {k : Nat} (h : k ≤ 6) : 64 / 2 ^ k * 2 ^ k = 64 :=
  Nat.div_mul_cancel (Nat.pow_dvd_pow 2 h)

theorem groups_mul_two {k : Nat} (h : k < 6) : 64 / 2 ^ (k + 1) * 2 = 64 / 2 ^ k := by
  refine (Nat.div_eq_of_eq_mul_left (Nat.two_pow_pos k) ?_).symm
  rw [Nat.mul_assoc, ← Nat.pow_succ', groups_mul_width h]

theorem group_start (k g : Nat) : g * 2 ^ (k + 1) = 2 * g * 2 ^ k := by ring

theorem laneNat_packedCounts {k g : Nat} (v : BitVec 64) (hg : g < 64 / 2 ^ k) :
    laneNat (2 ^ k) (packedCounts k v) g = onesAmong v (g * 2 ^ k) (2 ^ k) :=
  laneNat_packLanes (Nat.two_pow_pos k) (fun _ => onesAmong_lt_two_pow ..) (Nat.div_mul_le_self ..) hg

theorem popRef_eq_packedCounts (lvl : Nat) (v : BitVec 64) : popRef lvl v = packedCounts (lvl + 1) v := by
  simp only [popRef, popc_group, sumWords_ofNat]
  rfl

theorem laneNat_popRef {lvl g : Nat} (v : BitVec 64) (hg : g < 64 / 2 ^ (lvl + 1)) :
    laneNat (2 ^ (lvl + 1)) (popRef lvl v) g = onesAmong v (g * 2 ^ (lvl + 1)) (2 ^ (lvl + 1)) := by
  rw [popRef_eq_packedCounts, laneNat_packedCounts v hg]

theorem popHW_eq_popRef (lvl : Nat) (v : BitVec 64) : popHW lvl v = popRef lvl v := by
  rw [popRef_eq_packedCounts, packedCounts,
    packLanes_eq_orWords (Nat.two_pow_pos _) fun _ => onesAmong_lt_two_pow ..]
  simp only [popHW, hwPop, popc_group]
  rfl

/-- Settles O37: the sum is PopRef's own, and the counts fit their groups. -/
theorem popRefCountsGroups : Obligations.PopRefCountsGroups := fun lvl v _ =>
  ⟨popRef_eq_packedCounts lvl v, fun _ => laneNat_popRef v⟩

/-! ### The logic tree -/

/-- R154: ones in the low 2^k bits of every group of 2^(k+1). -/
theorem getLsbD_popMask (k : PopLevel) (n : Nat) :
    (popMask k).getLsbD n = (decide (n < 64) && decide (n % 2 ^ (k.val + 1) < 2 ^ k.val)) := by
  obtain ⟨-, -, hbits⟩ := pat?_eq_some.mp (pat?_popMask k)
  rw [hbits, ← lowMask, getLsbD_lowMask]
  by_cases hn : n < 64
  · simp [hn, (Nat.mod_le n _).trans_lt hn]
  · simp [hn]

/-- One stage of the logic tree: neighbouring groups of 2^k bits are added (R153). -/
def addNeighbours (k : PopLevel) (t : BitVec 64) : BitVec 64 :=
  (t &&& popMask k) + ((t >>> 2 ^ k.val) &&& popMask k)

section stage
variable (k : PopLevel) (t : BitVec 64)

/-- The low half of every group of 2^(k+1) bits, spread to the whole group. -/
theorem and_popMask : t &&& popMask k =
    packLanes 64 (2 ^ (k.val + 1)) (fun g => laneNat (2 ^ k.val) t (2 * g)) (64 / 2 ^ (k.val + 1)) := by
  rw [← packLanes_laneNat (groups_mul_width (k := k.val + 1) (by omega)) (t &&& popMask k)]
  refine packLanes_congr _ _ fun g hg => laneNat_eq_of_bits ?_ fun b hb => ?_
  · exact (laneNat_lt ..).trans (Nat.pow_lt_pow_right Nat.one_lt_two (Nat.pow_lt_pow_right Nat.one_lt_two (by omega)))
  · rw [BitVec.getLsbD_and, getLsbD_popMask, testBit_laneNat, Nat.mul_add_mod', Nat.mod_eq_of_lt hb, group_start]
    cases hbit : t.getLsbD (2 * g * 2 ^ k.val + b) with
    | false => simp
    | true => simp [BitVec.lt_of_getLsbD hbit]

/-- The high half of every group of 2^(k+1) bits, moved down and spread to the whole group. -/
theorem ushiftRight_and_popMask : (t >>> 2 ^ k.val) &&& popMask k =
    packLanes 64 (2 ^ (k.val + 1)) (fun g => laneNat (2 ^ k.val) t (2 * g + 1)) (64 / 2 ^ (k.val + 1)) := by
  have hshift (g : Nat) : laneNat (2 ^ k.val) (t >>> 2 ^ k.val) (2 * g) = laneNat (2 ^ k.val) t (2 * g + 1) := by
    rw [laneNat, laneNat, BitVec.toNat_ushiftRight, Nat.shiftRight_eq_div_pow, Nat.div_div_eq_div_mul, ← Nat.pow_add,
      Nat.add_mul, Nat.one_mul, Nat.add_comm]
  simp only [and_popMask, hshift]

/-- A group is its two halves (R23). -/
theorem laneNat_two_pow_succ {W : Nat} (k : Nat) (v : BitVec W) (g : Nat) : laneNat (2 ^ (k + 1)) v g =
    laneNat (2 ^ k) v (2 * g) + 2 ^ 2 ^ k * laneNat (2 ^ k) v (2 * g + 1) := by
  have hwidth : 2 ^ 2 ^ (k + 1) = 2 ^ 2 ^ k * 2 ^ 2 ^ k := by rw [Nat.pow_succ, Nat.mul_two, Nat.pow_add]
  rw [laneNat, laneNat, laneNat, hwidth, Nat.mod_mul, group_start, Nat.div_div_eq_div_mul, ← Nat.pow_add,
    Nat.add_mul (2 * g), Nat.one_mul]

/-- A stage turns the counts of the groups of 2^k bits into those of the groups of 2^(k+1) (R153). -/
theorem addNeighbours_eq_popRef {v : BitVec 64}
    (ht : ∀ g < 64 / 2 ^ k.val, laneNat (2 ^ k.val) t g = onesAmong v (g * 2 ^ k.val) (2 ^ k.val)) :
    addNeighbours k t = popRef k v := by
  rw [addNeighbours, and_popMask, ushiftRight_and_popMask, packLanes_add_packLanes, popRef_eq_packedCounts, packedCounts]
  refine packLanes_congr _ _ fun g hg => ?_
  have hgroups := groups_mul_two k.isLt
  rw [ht _ (by omega), ht _ (by omega), group_start, Nat.add_mul (2 * g), Nat.one_mul, Nat.pow_succ, Nat.mul_two,
    onesAmong_add]

end stage

/-- R152 subtracts from the word its odd bits, moved down: what is left are the even bits and the odd ones. -/
theorem popTree_zero (h : 0 < 6) (v : BitVec 64) : popTree 0 h v = addNeighbours ⟨0, h⟩ v := by
  have hodd : (v >>> 1) &&& popMask ⟨0, h⟩ = packLanes .. := ushiftRight_and_popMask ⟨0, h⟩ v
  have hsplit : v = (v &&& popMask ⟨0, h⟩) + ((v >>> 1) &&& popMask ⟨0, h⟩) + ((v >>> 1) &&& popMask ⟨0, h⟩) := by
    rw [and_popMask, hodd, packLanes_add_packLanes, packLanes_add_packLanes]
    refine (packLanes_laneNat (groups_mul_width (k := 1) (by decide)) v).symm.trans (packLanes_congr _ _ fun g _ => ?_)
    rw [laneNat_two_pow_succ]
    ring
  rw [popTree, addNeighbours]
  exact BitVec.sub_eq_iff_eq_add.mpr hsplit

theorem popTree_succ {k : Nat} (h : k + 1 < 6) (v : BitVec 64) :
    popTree (k + 1) h v = addNeighbours ⟨k + 1, h⟩ (popTree k (by omega) v) := rfl

theorem popTree_eq_popRef (v : BitVec 64) : ∀ (k : Nat) (h : k < 6), popTree k h v = popRef k v
  | 0, h => by
    rw [popTree_zero, addNeighbours_eq_popRef ⟨0, h⟩ v fun g _ => by simpa using laneNat_one_eq_onesAmong v g]
  | k + 1, h => by
    rw [popTree_succ, popTree_eq_popRef v k, addNeighbours_eq_popRef ⟨k + 1, h⟩ _ fun _ hg => laneNat_popRef v hg]

theorem popLogic_eq_popRef (lvl : PopLevel) (v : BitVec 64) : popLogic lvl v = popRef lvl v := popTree_eq_popRef v _ _

/-- No switch level changes a count (R156, R157). -/
theorem pop_eq_popRef (H : Nat) (lvl : PopLevel) (v : BitVec 64) : pop H lvl v = popRef lvl v := by
  unfold pop
  split
  · exact popHW_eq_popRef _ v
  · exact popLogic_eq_popRef lvl v

/-- Settles O39: each structure is the reference. -/
theorem populationCountPathsAgree : Obligations.PopulationCountPathsAgree :=
  ⟨fun lvl v _ => ⟨(popLogic_eq_popRef lvl v).trans (popHW_eq_popRef lvl v).symm, popHW_eq_popRef lvl v⟩,
    fun lvl v _ => popLogic_eq_popRef lvl v, fun H lvl v _ _ => pop_eq_popRef H lvl v⟩

end Sys2Proof.Machine
end

section
/-! PROOFS. POPCNT (`43_popcount.md` R158, R159): the count of the zero-extended operand, and what the truncation to W bits
leaves of it. -/

namespace Sys2Proof.Machine

section popcnt
variable {s : State} {lvl : SmallField}

theorem answers_popcnt (h : lvl.toNat ≤ 5) :
    Answers (.popcnt lvl) s ((popRef lvl.toNat (s.a.setWidth 64)).setWidth s.cfg.W) := by
  have hlevel : popLevel? lvl = some ⟨lvl.toNat, by omega⟩ := popLevel?_eq_some.mpr rfl
  simp [Answers, exec, execPopcnt, hlevel, pop_eq_popRef]

theorem popcnt_refused (h : 5 < lvl.toNat) : exec (.popcnt lvl) s = .refused .popLevelReserved := by
  simp [exec, execPopcnt, popLevel?_eq_none.mpr h]

end popcnt

/-- Settles O40: whichever path the switch level selects, it computes the reference. -/
theorem popcntAnswersReference : Obligations.PopcntAnswersReference := fun lvl _ =>
  ⟨rfl, fun h => ⟨encodes_formula (instr := .popcnt lvl) (if_pos h), answers_popcnt h⟩, popcnt_refused⟩

theorem getLsbD_setWidth_64 (c : Config) (v : BitVec c.W) (p : Nat) : (v.setWidth 64).getLsbD p = v.getLsbD p := by
  have hword := c.word_le
  rw [BitVec.getLsbD_setWidth]
  by_cases hp : p < 64
  · simp [hp]
  · simp [BitVec.getLsbD_of_ge v p (by omega)]

/-- A lane inside the shorter word is kept by the truncation to it (R158). -/
theorem laneNat_setWidth {W W' N g : Nat} (v : BitVec W') (hg : g < W / N) :
    laneNat N (v.setWidth W) g = laneNat N v g := by
  refine laneNat_eq_of_bits (laneNat_lt ..) fun b hb => ?_
  have hp : g * N + b < W := (lane_bit_lt_mul hg hb).trans_le (Nat.div_mul_le_self W N)
  simp [testBit_laneNat, hb, hp]

/-- A word that a lane covers is cut out of that lane (R159). -/
theorem toNat_setWidth_of_le {W W' N : Nat} (v : BitVec W') (h : W ≤ N) :
    (v.setWidth W).toNat = laneNat N v 0 % 2 ^ W := by
  rw [BitVec.toNat_setWidth, laneNat, Nat.zero_mul, Nat.pow_zero, Nat.div_one, Nat.mod_mod_of_dvd _ (Nat.pow_dvd_pow 2 h)]

/-- Settles O41: a count of at most W fits the word, and no group of at most W bits is cut by the truncation. -/
theorem popcntCountsBits : Obligations.PopcntCountsBits := by
  intro lvl s hlvl
  have hones := onesAmong_congr (getLsbD_setWidth_64 s.cfg s.a)
  refine ⟨_, answers_popcnt hlvl, fun hwide => ?_, fun _ g hg => ?_⟩
  · have hgroup : 0 < 64 / 2 ^ (lvl.toNat + 1) :=
      Nat.div_pos (Nat.pow_le_pow_right Nat.two_pos (show lvl.toNat + 1 ≤ 6 by omega)) (Nat.two_pow_pos _)
    rw [toNat_setWidth_of_le _ hwide, laneNat_popRef _ hgroup, hones, Nat.zero_mul, onesAmong_of_word_le _ hwide,
      Nat.mod_eq_of_lt (onesAmong_lt_two_pow ..)]
  · rw [laneNat_setWidth _ hg, laneNat_popRef _ ?_, hones]
    exact hg.trans_le (Nat.div_le_div_right s.cfg.word_le)

end Sys2Proof.Machine
end

section
/-! PROOFS. The Parallel Comparison (`44_compare.md` R170, R174, R175): the lanes of GE's word, and those of the guarded
subtraction, in which no lane borrows from the next. -/

namespace Sys2Proof.Machine

/-! ### The most significant bit of each lane -/

theorem laneNat_and {W : Nat} (N : Nat) (x y : BitVec W) (k : Nat) :
    laneNat N (x &&& y) k = laneNat N x k &&& laneNat N y k := by
  simp only [laneNat, BitVec.toNat_and, Nat.and_div_two_pow, Nat.and_mod_two_pow]

theorem laneNat_or {W : Nat} (N : Nat) (x y : BitVec W) (k : Nat) :
    laneNat N (x ||| y) k = laneNat N x k ||| laneNat N y k := by
  simp only [laneNat, BitVec.toNat_or, Nat.or_div_two_pow, Nat.or_mod_two_pow]

/-- A number of `n + 1` bits has its highest bit exactly from 2^n up. -/
theorem and_two_pow_of_lt {x n : Nat} (hx : x < 2 ^ (n + 1)) : x &&& 2 ^ n = if 2 ^ n ≤ x then 2 ^ n else 0 := by
  rw [Nat.and_two_pow]
  split <;> rename_i hle
  · rw [Nat.testBit_of_two_pow_le_and_two_pow_add_one_gt hle hx, Bool.toNat_true, Nat.one_mul]
  · rw [Nat.testBit_lt_two_pow (Nat.lt_of_not_le hle), Bool.toNat_false, Nat.zero_mul]

section msbs
variable (c : Config) (v : BitVec c.W) {k : Nat} (hk : k < c.L)
include hk

/-- Every lane of MSBS is 2^(N-1) (R83). -/
theorem laneNat_msbs : laneNat c.N (msbs c) k = 2 ^ (c.N - 1) := by
  have hlow : c.N - 1 < c.W := (Nat.sub_one_lt c.lane_pos.ne').trans_le c.lane_le_word
  rw [laneNat_of_pat (pat?_msbs c) hk, BitVec.toNat_ofNat,
    Nat.mod_eq_of_lt (Nat.pow_lt_pow_right Nat.one_lt_two hlow)]

/-- MSBS leaves of a lane its most significant bit, which is on from 2^(N-1) up (R24). -/
theorem laneNat_and_msbs :
    laneNat c.N (v &&& msbs c) k = if 2 ^ (c.N - 1) ≤ laneNat c.N v k then 2 ^ (c.N - 1) else 0 := by
  rw [laneNat_and, laneNat_msbs c hk, and_two_pow_of_lt]
  rw [Nat.sub_one_add_one c.lane_pos.ne']
  exact laneNat_lt ..

/-- A lane whose most significant bit is off is below 2^(N-1) (R174). -/
theorem laneNat_lt_of_and_msbs (hoff : v &&& msbs c = 0) : laneNat c.N v k < 2 ^ (c.N - 1) := by
  have hlane := laneNat_and_msbs c v hk
  rw [hoff] at hlane
  by_contra hge
  rw [if_pos (Nat.le_of_not_lt hge)] at hlane
  exact absurd hlane.symm (by simp [laneNat])

/-- The guard bits raise every lane whose most significant bit is off by 2^(N-1) (R172). -/
theorem laneNat_or_msbs (hoff : v &&& msbs c = 0) :
    laneNat c.N (v ||| msbs c) k = 2 ^ (c.N - 1) + laneNat c.N v k := by
  rw [laneNat_or, laneNat_msbs c hk, Nat.lor_comm]
  simpa using (Nat.two_pow_add_eq_or_of_lt (laneNat_lt_of_and_msbs c v hk hoff) 1).symm

end msbs

/-! ### Subtraction without a borrow -/

/-- Where no lane of y is above that of x, the difference of the words is the difference of the lanes (R172). -/
theorem laneNat_sub (c : Config) {x y : BitVec c.W} (hle : ∀ k < c.L, laneNat c.N y k ≤ laneNat c.N x k) {k : Nat}
    (hk : k < c.L) : laneNat c.N (x - y) k = laneNat c.N x k - laneNat c.N y k := by
  have hpack : x - y = packLanes c.W c.N (fun k => laneNat c.N x k - laneNat c.N y k) c.L := by
    refine BitVec.sub_eq_iff_eq_add.mpr ?_
    calc x
      _ = packLanes c.W c.N (laneNat c.N x) c.L := (packLanes_laneNat c.lanes_mul_width x).symm
      _ = packLanes c.W c.N (fun k => laneNat c.N x k - laneNat c.N y k + laneNat c.N y k) c.L :=
        packLanes_congr _ _ fun k hk => (Nat.sub_add_cancel (hle k hk)).symm
      _ = packLanes c.W c.N (fun k => laneNat c.N x k - laneNat c.N y k) c.L + y := by
        rw [← packLanes_add_packLanes, packLanes_laneNat c.lanes_mul_width y]
  rw [hpack, laneNat_packLanes c.lane_pos (fun _ => (Nat.sub_le ..).trans_lt (laneNat_lt ..)) c.lanes_mul_width.le hk]

/-! ### The words of GE and GEMSBOFF -/

theorem geWord_eq_packLanes {W : Nat} (N : Nat) (a : BitVec W) (K : Nat) :
    geWord N a K = packLanes W N (fun k => if K ≤ laneNat N a k then 2 ^ (N - 1) else 0) (W / N) := by
  rw [geWord, packLanes, ← sumWords_ofNat]
  refine congrArg (sumWords · (W / N)) (funext fun k => ?_)
  rw [lane_toNat]
  split
  · rw [← Nat.pow_add, Nat.add_comm, oneBit]
    exact BitVec.eq_of_toNat_eq (by rw [BitVec.toNat_twoPow, BitVec.toNat_ofNat])
  · rw [Nat.zero_mul]
    rfl

/-- Lane k of GE's word says whether lane k of the operand is at least the constant (R170). -/
theorem laneNat_geWord (c : Config) (a : BitVec c.W) (K : Nat) {k : Nat} (hk : k < c.L) :
    laneNat c.N (geWord c.N a K) k = if K ≤ laneNat c.N a k then 2 ^ (c.N - 1) else 0 := by
  have hfits (g : Nat) : (if K ≤ laneNat c.N a g then 2 ^ (c.N - 1) else 0) < 2 ^ c.N := by
    split
    · exact Nat.pow_lt_pow_right Nat.one_lt_two (Nat.sub_one_lt c.lane_pos.ne')
    · exact Nat.two_pow_pos _
  rw [geWord_eq_packLanes]
  exact laneNat_packLanes c.lane_pos hfits c.lanes_mul_width.le hk

/-- With the most significant bits off, lane k of the guarded difference says whether lane k of the left word is at
least that of the right (R174). -/
theorem laneNat_guardSub (c : Config) {a b : BitVec c.W} (ha : a &&& msbs c = 0) (hb : b &&& msbs c = 0) {k : Nat}
    (hk : k < c.L) :
    laneNat c.N (guardSub c a b) k = if laneNat c.N b k ≤ laneNat c.N a k then 2 ^ (c.N - 1) else 0 := by
  have hguarded : ∀ k < c.L, laneNat c.N b k ≤ laneNat c.N (a ||| msbs c) k := fun k hk => by
    rw [laneNat_or_msbs c a hk ha]
    exact (laneNat_lt_of_and_msbs c b hk hb).le.trans (Nat.le_add_right ..)
  have habsorbed : 2 ^ (c.N - 1) ≤ 2 ^ (c.N - 1) + laneNat c.N a k - laneNat c.N b k ↔
      laneNat c.N b k ≤ laneNat c.N a k := by
    have := laneNat_lt_of_and_msbs c b hk hb
    omega
  rw [guardSub, laneNat_and_msbs c _ hk, laneNat_sub c hguarded hk, laneNat_or_msbs c a hk ha]
  simp only [habsorbed]

/-! ### GE and GEMSBOFF -/

section operations
variable {s : State} {v : BitVec s.cfg.W}

theorem deliver_eq_next_setR {w : BitVec s.cfg.W} : deliver s w = .next (s.setR v) ↔ v = w := by
  rw [deliver_eq, Host.Outcome.next.injEq]
  exact ⟨fun h => by simpa [State.setR] using h.symm, fun h => h ▸ rfl⟩

/-- What GE answers, and when (R170, R171). -/
theorem answers_ge_iff : Answers .ge s v ↔
    1 < s.cfg.N ∧ s.b.toNat < 2 ^ s.cfg.N ∧ v = geWord s.cfg.N s.a s.b.toNat := by
  rw [Answers, exec, execGe, whenLegal_eq_next, require_eq_next, deliver_eq_next_setR]
  simp [legality]

theorem ge_fault (hN : 1 < s.cfg.N) (hb : 2 ^ s.cfg.N ≤ s.b.toNat) :
    exec .ge s = .fault (.constantTooWide s.b.toNat) := by
  have hlegal : legality s.cfg .ge = none := if_pos hN
  rw [exec, execGe, whenLegal_of_legal hlegal, require_of_neg (Nat.not_lt.mpr hb)]

theorem ge_refused (hN : s.cfg.N = 1) : exec .ge s = .refused .degenerateLane := by
  have hillegal : legality s.cfg .ge = some .degenerateLane := if_neg hN.not_gt
  rw [exec, execGe, whenLegal_of_illegal hillegal]

/-- What GEMSBOFF answers, and when (R174). -/
theorem answers_gemsboff_iff : Answers .gemsboff s v ↔
    1 < s.cfg.N ∧ (s.a &&& msbs s.cfg = 0 ∧ s.b &&& msbs s.cfg = 0) ∧ v = guardSub s.cfg s.a s.b := by
  rw [Answers, exec, execGemsboff, whenLegal_eq_next, require_eq_next, deliver_eq_next_setR]
  simp [legality]

theorem gemsboff_fault (hN : 1 < s.cfg.N) (hon : ¬(s.a &&& msbs s.cfg = 0 ∧ s.b &&& msbs s.cfg = 0)) :
    exec .gemsboff s = .fault (.msbNotOff s.a.toNat s.b.toNat) := by
  have hlegal : legality s.cfg .gemsboff = none := if_pos hN
  rw [exec, execGemsboff, whenLegal_of_legal hlegal, require_of_neg hon]

theorem gemsboff_refused (hN : s.cfg.N = 1) : exec .gemsboff s = .refused .degenerateLane := by
  have hillegal : legality s.cfg .gemsboff = some .degenerateLane := if_neg hN.not_gt
  rw [exec, execGemsboff, whenLegal_of_illegal hillegal]

end operations

/-! ### The statements -/

/-- Settles O42: the contract's sum puts one N-bit number at each lane, so its lanes are those numbers. -/
theorem geMeetsContract : Obligations.GeMeetsContract := fun s =>
  ⟨⟨rfl, rfl⟩, rfl,
    fun hN hb => ⟨_, answers_ge_iff.mpr ⟨hN, hb, rfl⟩, fun _ hk => laneNat_geWord s.cfg s.a s.b.toNat hk⟩,
    ge_fault, ge_refused⟩

/-- Settles O45: the guard bit keeps each lane of the minuend at least the subtrahend's, so no lane borrows. -/
theorem gemsboffComparesLanes : Obligations.GemsboffComparesLanes := by
  intro s off
  exact ⟨⟨rfl, rfl⟩, rfl,
    fun hN hoff => ⟨_, answers_gemsboff_iff.mpr ⟨hN, hoff, rfl⟩, fun _ hk => laneNat_guardSub s.cfg hoff.1 hoff.2 hk⟩,
    gemsboff_fault, gemsboff_refused⟩

/-- Settles O46: lane k of either answer is a function of lane k of the operands. -/
theorem comparisonLanesIndependent : Obligations.ComparisonLanesIndependent := by
  intro s a b v w k hk ha
  refine ⟨fun hv hw => ?_, fun hb hv hw => ?_⟩
  · obtain ⟨-, -, rfl⟩ := answers_ge_iff.mp hv
    obtain ⟨-, -, rfl⟩ := answers_ge_iff.mp hw
    rw [laneNat_geWord s.cfg _ _ hk, laneNat_geWord s.cfg _ _ hk, ha]
  · obtain ⟨-, ⟨hva, hvb⟩, rfl⟩ := answers_gemsboff_iff.mp hv
    obtain ⟨-, ⟨hwa, hwb⟩, rfl⟩ := answers_gemsboff_iff.mp hw
    rw [laneNat_guardSub s.cfg hva hvb hk, laneNat_guardSub s.cfg hwa hwb hk, ha, hb]

end Sys2Proof.Machine
end

section
/-! PROOFS. The negation of a Boolean Lane Word (`45_boolean_lane.md` R190, R194): exclusive or with MSBS. -/

namespace Sys2Proof.Machine

/-! ### The truth bits -/

/-- The 1 bits of MSBS are the most significant bits of the lanes (R83). -/
theorem getLsbD_msbs (c : Config) {n : Nat} (hn : n < c.W) : (msbs c).getLsbD n = decide (n % c.N = c.N - 1) := by
  obtain ⟨-, -, hbits⟩ := pat?_eq_some.mp (pat?_msbs c)
  have hplace : n % c.N < c.W := (Nat.mod_lt n c.lane_pos).trans_le c.lane_le_word
  rw [hbits, BitVec.getLsbD_ofNat, Nat.testBit_two_pow]
  simp [hn, hplace, eq_comm]

theorem getLsbD_xor_msbs (c : Config) (v : BitVec c.W) {n : Nat} (hn : n < c.W) :
    (v ^^^ msbs c).getLsbD n = (v.getLsbD n ^^ decide (n % c.N = c.N - 1)) := by
  rw [BitVec.getLsbD_xor, getLsbD_msbs c hn]

/-- The truth bit of lane k is one of those MSBS flips (R24, R190). -/
theorem laneTrue_xor_msbs (c : Config) (v : BitVec c.W) {k : Nat} (hk : k < c.L) :
    laneTrue c.N (v ^^^ msbs c) k = !laneTrue c.N v k := by
  have htop : c.N - 1 < c.N := Nat.sub_one_lt c.lane_pos.ne'
  rw [laneTrue, laneTrue, Nat.add_sub_assoc c.lane_pos, getLsbD_xor_msbs c v (bit_lt_word c hk htop),
    Nat.mul_add_mod', Nat.mod_eq_of_lt htop, decide_eq_true rfl, Bool.xor_true]

/-! ### BNOT -/

section bnot
variable {s : State} {v : BitVec s.cfg.W}

/-- What BNOT answers, and when (R190). -/
theorem answers_bnot_iff : Answers .bnot s v ↔ 1 < s.cfg.N ∧ v = s.a ^^^ msbs s.cfg := by
  rw [Answers, exec, execBnot, whenLegal_eq_next, deliver_eq_next_setR]
  simp [legality]

theorem bnot_refused (hN : s.cfg.N = 1) : exec .bnot s = .refused .degenerateLane := by
  have hillegal : legality s.cfg .bnot = some .degenerateLane := if_neg hN.not_gt
  rw [exec, execBnot, whenLegal_of_illegal hillegal]

end bnot

/-- EQ of a word with itself answers 1 (R130). -/
theorem answers_eq_of_eq {s : State} (h : s.a = s.b) : Answers .eq s 1 := by
  simpa [h, flagWord] using answers_eq s

/-! ### The statements -/

/-- Settles O47: the 1 bits of MSBS, which BNOT flips, are the truth bits of the lanes and no others. -/
theorem bnotFlipsTruthBits : Obligations.BnotFlipsTruthBits := fun s =>
  ⟨⟨rfl, rfl⟩, rfl,
    fun hN => ⟨_, answers_bnot_iff.mpr ⟨hN, rfl⟩, fun _ hn => getLsbD_xor_msbs s.cfg s.a hn,
      fun _ hk => laneTrue_xor_msbs s.cfg s.a hk⟩,
    bnot_refused⟩

/-- Settles O48: the exclusive or with MSBS is undone by a second one. -/
theorem doubleNegationIsIdentity : Obligations.DoubleNegationIsIdentity := by
  intro s hN
  have hundone : s.a = s.a ^^^ msbs s.cfg ^^^ msbs s.cfg := by
    rw [BitVec.xor_assoc, BitVec.xor_self, BitVec.xor_zero]
  exact ⟨s.a ^^^ msbs s.cfg, s.a, answers_bnot_iff.mpr ⟨hN, rfl⟩, answers_bnot_iff.mpr ⟨hN, hundone⟩, rfl,
    answers_eq_of_eq rfl⟩

end Sys2Proof.Machine
end

section
/-! PROOFS. The decoder and the encoder undo each other (`30_encoding.md` R51, R54, R55). -/

namespace Sys2Proof

/-- The well-formed instructions are those whose fields the decoder does not reject (R55 conditions 3 and 4). -/
theorem Instr.wf_iff_rejectField {instr : Instr} : instr.wf = true ↔ rejectField instr = none := by
  cases instr with
  | pattern _ | popcnt _ => simp [Instr.wf, rejectField]
  | _ => exact ⟨fun _ => rfl, fun _ => rfl⟩

/-- A word is packed from its own three fields, so it is the control word of the instruction that has them (R51). -/
theorem FieldsOf.encode_eq {instr : Instr} {cw : ControlWord} (h : FieldsOf instr cw) : encode instr = cw := by
  refine BitVec.eq_of_toNat_eq ?_
  rw [encode, packFields_toNat, h.opc, h.i, h.j, opcField_toNat, iField_toNat, jField_toNat]
  omega

/-- Settles O6: no field of a well-formed instruction is rejected, and its word's fields are its own. -/
theorem decodeEncodeAgree : Obligations.DecodeEncodeAgree := fun _ hwf => decode_encode (Instr.wf_iff_rejectField.mp hwf)

/-- Settles O7: the decoded instruction has the word's three fields, and they make the word. -/
theorem decodeOnlyCanonicalWords : Obligations.DecodeOnlyCanonicalWords := by
  intro cw instr h
  obtain ⟨hshape, hfields⟩ := decode_eq_ok.mp h
  exact ⟨(decodeShape_fields hshape).encode_eq, Instr.wf_iff_rejectField.mpr hfields⟩

/-- Settles O5: the decoder evaluated on each word. -/
theorem sampleControlWordsDecode : Obligations.SampleControlWordsDecode :=
  ⟨rfl, rfl, rfl, rfl, rfl, rfl, rfl, rfl, rfl, rfl⟩

end Sys2Proof
end

section
/-! PROOFS. What the answer of a transaction does not depend on: operands the operation does not read (`10_state.md` R21),
the OPEN parameters (`43_popcount.md` R156, R157), and what was on `r` before (`20_memory.md` R44). -/

namespace Sys2Proof.Machine

theorem answer_whenLegal_congr_of_legality {instr : Instr} {s s' : State} {k k' : State → Ending}
    (hlegality : legality s'.cfg instr = legality s.cfg instr) (h : answer (k s') = answer (k' s)) :
    answer (whenLegal instr s' k) = answer (whenLegal instr s k') := by
  unfold whenLegal
  rw [hlegality]
  cases legality s.cfg instr with
  | none => exact h
  | some x => rfl

section otherLines
variable (s : State) (h latency : Nat) (ok : 2 ≤ h ∧ h ≤ 6)

/-- The OPEN parameters decide no legality (R55). -/
theorem legality_withOpenParameters (instr : Instr) :
    legality (s.withOpenParameters h latency ok).cfg instr = legality s.cfg instr := by
  cases instr <;> rfl

variable (cw : ControlWord) (x y : BitVec s.cfg.W)

/-- The same state before an instance with other OPEN parameters, with another request on the lines. -/
def State.withLines : State := (s.withOpenParameters h latency ok).drive cw x y

theorem legality_withLines (instr : Instr) :
    legality (s.withLines h latency ok cw x y).cfg instr = legality s.cfg instr :=
  legality_withOpenParameters s h latency ok instr

/-- An operation's answer is the same with other OPEN parameters, and with anything on the operand lines it does not
read (R21, R157, R235). POPCNT alone looks at the switch level, and every path it selects computes the reference. -/
theorem answer_exec_withLines {instr : Instr} (hx : aKind instr = none ∨ x = s.a) (hy : bKind instr = none ∨ y = s.b) :
    answer (exec instr (s.withLines h latency ok cw x y)) = answer (exec instr s) := by
  have hlegality := legality_withLines s h latency ok cw x y
  rcases hx with hunread | rfl
  · cases instr with
    | zero | topclr | masklow => rfl
    | _ => cases hunread
  · cases instr with
    | zero | topclr | masklow | isolsb | clrlsb | isolsbits | clrlsbits => rfl
    | atLane _ | clear _ | broadcast => exact answer_require_congr rfl
    | set _ _ => exact answer_require_congr (answer_require_congr rfl)
    | top | lsbidx => exact answer_requireSome_congr fun _ => rfl
    | pattern _ | best =>
      simp only [exec, execPattern, execBest]
      exact answer_whenLegal_congr_of_legality (hlegality _) (answer_requireSome_congr fun _ => rfl)
    | bclear _ =>
      simp only [exec, execBclear]
      exact answer_whenLegal_congr_of_legality (hlegality _) (answer_require_congr rfl)
    | bnot | bany =>
      simp only [exec, execBnot, execBany]
      exact answer_whenLegal_congr_of_legality (hlegality _) rfl
    | popcnt level =>
      simp only [exec, execPopcnt]
      cases popLevel? level with
      | none => rfl
      | some lvl =>
        simp only [pop_eq_popRef]
        rfl
    | or | and | xor | eq =>
      obtain rfl : y = s.b := by simpa [bKind] using hy
      rfl
    | ge | gemsboff =>
      obtain rfl : y = s.b := by simpa [bKind] using hy
      simp only [exec, execGe, execGemsboff]
      exact answer_whenLegal_congr_of_legality (hlegality _) (answer_require_congr rfl)

end otherLines

/-- The answer is a function of the instance and of the operands the operation reads (R20, R21). -/
theorem answer_exec_congr {instr : Instr} {s s' : State} (hcfg : s'.cfg = s.cfg)
    (ha : aKind instr = none ∨ s'.a.toNat = s.a.toNat) (hb : bKind instr = none ∨ s'.b.toNat = s.b.toNat) :
    answer (exec instr s') = answer (exec instr s) := by
  obtain ⟨c, cw, a, b, r, pending, bound, recorded⟩ := s'
  obtain rfl : c = s.cfg := hcfg
  calc answer (exec instr ⟨s.cfg, cw, a, b, r, pending, bound, recorded⟩)
    _ = answer (exec instr (s.withLines _ s.cfg.latency s.cfg.admitted.2.2 cw a b)) :=
      answer_exec_withHistory (s.withLines _ s.cfg.latency s.cfg.admitted.2.2 cw a b) r pending bound recorded instr
    _ = answer (exec instr s) :=
      answer_exec_withLines s _ _ _ cw a b (ha.imp_right BitVec.eq_of_toNat_eq) (hb.imp_right BitVec.eq_of_toNat_eq)

/-- Settles O18: the lines differ only in an operand the operation does not read. -/
theorem ignoredOperandsIgnored : Obligations.IgnoredOperandsIgnored := fun _ s v =>
  ⟨fun hb => answer_exec_withLines s _ s.cfg.latency s.cfg.admitted.2.2 s.cw s.a v (.inr rfl) (.inl hb),
    fun ha => answer_exec_withLines s _ s.cfg.latency s.cfg.admitted.2.2 s.cw v s.b (.inl ha) (.inr rfl)⟩

/-- Settles O20: the decoder knows no instance, and the operation's answer is the same with both operands as they are. -/
theorem openParametersInvisible : Obligations.OpenParametersInvisible := by
  intro cw s h latency ok
  unfold transact
  cases decode cw with
  | error e => rfl
  | ok instr => exact answer_exec_withLines s h latency ok s.cw s.a s.b (.inr rfl) (.inr rfl)

/-- What is read on `r` after a transaction is its answer. -/
theorem answer_eq_value {e : Ending} {n : Nat} : answer e = .value n ↔ ∃ t, e = .next t ∧ t.r.toNat = n := by
  cases e <;> simp [answer]

/-- Settles O19: the state after the transaction differs in `r` alone, on which no answer depends, so the second time the
same value is put on `r`. -/
theorem repeatingChangesNothing : Obligations.RepeatingChangesNothing := by
  intro cw s t h
  obtain ⟨instr, hdecode, hexec⟩ := transact_eq_next.mp h
  obtain ⟨v, rfl⟩ := exec_writesOnlyR instr s t hexec
  have hanswer : answer (exec instr (s.setR v)) = .value v.toNat := by
    have hsame := answer_exec_withHistory s v s.pending s.bound s.recorded instr
    rwa [hexec] at hsame
  obtain ⟨u, hu, hr⟩ := answer_eq_value.mp hanswer
  obtain ⟨w, rfl⟩ := exec_writesOnlyR instr _ u hu
  obtain rfl : v = w := BitVec.eq_of_toNat_eq hr.symm
  exact transact_eq_next.mpr ⟨instr, hdecode, hu⟩

end Sys2Proof.Machine
end

section
/-! PROOFS. Refusals come before faults, and a fault ends the run (`60_exceptions.md` R211, R213). -/

namespace Sys2Proof.Machine

/-- An operation is refused exactly where the instance does not admit it: no operand is looked at (R213). -/
theorem exec_eq_refused {instr : Instr} {s : State} {x : Refusal} :
    exec instr s = .refused x ↔ legality s.cfg instr = some x := by
  cases instr with
  | zero | topclr | isolsb | clrlsb | masklow | isolsbits | clrlsbits | or | and | xor | eq => exact ⟨nofun, nofun⟩
  | atLane _ | clear _ | broadcast | top | lsbidx | set _ _ =>
    simp [exec, execAt, execClear, execBroadcast, execTop, execLsbidx, execSet, requireLane_eq_refused,
      require_eq_refused, requireSome_eq_refused, legality]
  | pattern _ | best | ge | gemsboff | bclear _ | bnot | bany =>
    simp [exec, execPattern, execBest, execGe, execGemsboff, execBclear, execBnot, execBany, whenLegal_eq_refused,
      requireLane_eq_refused, require_eq_refused, requireSome_eq_refused]
  | popcnt level =>
    by_cases hlevel : level.toNat ≤ 5
    · have hnext : exec (.popcnt level) s = _ := answers_popcnt hlevel
      simp [hnext, legality, hlevel]
    · simp [popcnt_refused (Nat.lt_of_not_le hlevel), legality, hlevel]

/-- A transaction is refused exactly where its request is not legal (R55, R212). -/
theorem transact_eq_refused {cw : ControlWord} {s : State} {x : Refusal} :
    transact cw s = .refused x ↔ requestInstr s.cfg cw = .error x := by
  unfold transact requestInstr
  cases decode cw with
  | error e => simp
  | ok instr =>
    simp only [exec_eq_refused]
    cases legality s.cfg instr <;> simp

section step
variable {s : State} {f : Fault}

theorem step_of_recorded (h : s.recorded = some f) : step s = .fault f := by simp [step, h]

theorem step_of_pending_nil (hrec : s.recorded = none) (hpending : s.pending = []) : step s = transact s.cw s := by
  simp [step, nextStatement, hrec, hpending, issue]

theorem step_of_refused {st : Stmt} {rest : List Stmt} {x : Refusal} (hrec : s.recorded = none)
    (hpending : s.pending = st :: rest) (h : s.programRefusal = some x) : step s = .refused x := by
  simp [step, nextStatement, hrec, hpending, h]

theorem step_of_accepted {st : Stmt} {rest : List Stmt} (h : s.Accepted) (hpending : s.pending = st :: rest) :
    step s = perform { s with pending := rest } st := by
  obtain ⟨hrec, hprogram⟩ := h
  simp [step, nextStatement, hrec, hpending, hprogram]

theorem advance_of_fault (h : step s = .fault f) : advance s = .ok { s with recorded := some f } := by simp [advance, h]

theorem runFor_of_recorded (n : Nat) (h : s.recorded = some f) : runFor n s = .ok s := by
  cases n with
  | zero => rfl
  | succ n => simp [runFor, h]

end step

/-- Settles O13: of one instruction, of the lines and of a program; the lane index of SET is checked first. -/
theorem refusalBeforeFault : Obligations.RefusalBeforeFault := by
  refine ⟨fun _ _ _ => exec_eq_refused, fun s x hrec hpending hrequest => ?_,
    fun _ _ _ _ hrec hpending h => step_of_refused hrec hpending h, fun _ _ _ hi _ => set_fault_lane hi⟩
  rw [step_of_pending_nil hrec hpending]
  exact transact_eq_refused.mpr hrequest

/-- Settles O14: a recorded fault answers every step, and a run stops at it. -/
theorem faultStopsTheRun : Obligations.FaultStopsTheRun :=
  ⟨fun _ _ h => ⟨advance_of_fault h, fun n => runFor_of_recorded n rfl⟩, fun _ _ h => step_of_recorded h⟩

/-- A table word that decodes has no bit above the control word's 17. -/
theorem decodeTableWord_eq_some {nbits w : Nat} {instr : Instr} (h : decodeTableWord nbits w = some instr) :
    decode (BitVec.ofNat 17 (w % 2 ^ nbits)) = .ok instr := by
  obtain ⟨-, hdecode⟩ := Option.ite_none_right_eq_some.mp h
  cases hword : decode (BitVec.ofNat 17 (w % 2 ^ nbits)) with
  | error e => simp [hword, Except.toOption] at hdecode
  | ok i => simpa [hword, Except.toOption] using hdecode

theorem transact_of_decode {cw : ControlWord} {instr : Instr} (h : decode cw = .ok instr) (s : State) :
    transact cw s = exec instr s := by simp [transact, h]

/-- Settles O10: with no statement pending a step is the transaction of the word on port `cw`. -/
theorem stepRunsRequestOnLines : Obligations.StepRunsRequestOnLines := by
  refine ⟨fun s instr hrec hpending hdecode => ?_, fun s nbits w instr h => ?_⟩
  · rw [step_of_pending_nil hrec hpending, transact_of_decode hdecode]
  · rw [step_of_pending_nil rfl rfl]
    exact transact_of_decode (decodeTableWord_eq_some h) _

end Sys2Proof.Machine
end

section
/-! PROOFS. The Boolean Lane Word (`45_boolean_lane.md` R191 to R195): its 1 bits are truth bits, which the four producers
keep and BCLEAR, BEST and BANY read. -/

namespace Sys2Proof.Machine

/-! ### The truth bit of a lane (R24) -/

theorem truthBit_eq_iff (c : Config) {n k : Nat} : n = k * c.N + c.N - 1 ↔ n / c.N = k ∧ n % c.N = c.N - 1 := by
  have hpos := c.lane_pos
  rw [Nat.add_sub_assoc hpos, ← bit_position_inj (Nat.mod_lt n hpos) (Nat.sub_one_lt hpos.ne'), Nat.div_add_mod']

theorem truthBit_lt_word (c : Config) {k : Nat} (hk : k < c.L) : k * c.N + c.N - 1 < c.W := by
  rw [Nat.add_sub_assoc c.lane_pos]
  exact bit_lt_word c hk (Nat.sub_one_lt c.lane_pos.ne')

theorem laneTrue_of_laneNat_eq_zero (c : Config) {v : BitVec c.W} {k : Nat} (h : laneNat c.N v k = 0) :
    laneTrue c.N v k = false :=
  (laneNat_eq_zero_iff c.lane_pos v k).mp h _ ((truthBit_eq_iff c).mp rfl).1

/-- A lane is true exactly when it is 2^(N-1) or more (R24). -/
theorem laneTrue_eq_decide (c : Config) (v : BitVec c.W) (k : Nat) :
    laneTrue c.N v k = decide (2 ^ (c.N - 1) ≤ laneNat c.N v k) := by
  have hlt : laneNat c.N v k < 2 ^ (c.N - 1 + 1) := by
    rw [Nat.sub_one_add_one c.lane_pos.ne']
    exact laneNat_lt ..
  rw [laneTrue, Nat.add_sub_assoc c.lane_pos, getLsbD_eq_testBit_laneNat v k (Nat.sub_one_lt c.lane_pos.ne')]
  by_cases hle : 2 ^ (c.N - 1) ≤ laneNat c.N v k
  · rw [Nat.testBit_of_two_pow_le_and_two_pow_add_one_gt hle hlt, decide_eq_true hle]
  · rw [Nat.testBit_lt_two_pow (Nat.lt_of_not_le hle), decide_eq_false hle]

/-! ### The words of kind Bool (R24) -/

section boolWord
variable {c : Config} {x y : BitVec c.W}

/-- The invariant of kind Bool, bit by bit: every 1 bit is the most significant of its lane. -/
theorem isBoolWord_iff : isBoolWord c x = true ↔ ∀ n, x.getLsbD n = true → n % c.N = c.N - 1 := by
  rw [isBoolWord, beq_iff_eq]
  constructor
  · intro h n hbit
    have hn := BitVec.lt_of_getLsbD hbit
    have hzero : (x &&& ~~~msbs c).getLsbD n = false := by simp [h]
    rw [BitVec.getLsbD_and, hbit, BitVec.getLsbD_not, getLsbD_msbs c hn] at hzero
    simpa [hn] using hzero
  · intro h
    refine BitVec.eq_of_getLsbD_eq fun n hn => ?_
    cases hbit : x.getLsbD n with
    | false => simp [hbit]
    | true => simp [hn, getLsbD_msbs c hn, h n hbit]

theorem isBoolWord_msbs (c : Config) : isBoolWord c (msbs c) = true :=
  isBoolWord_iff.mpr fun n hbit => by simpa [getLsbD_msbs c (BitVec.lt_of_getLsbD hbit)] using hbit

theorem isBoolWord_and_left (h : isBoolWord c x = true) (y : BitVec c.W) : isBoolWord c (x &&& y) = true :=
  isBoolWord_iff.mpr fun n hbit => isBoolWord_iff.mp h n (by simp_all)

theorem isBoolWord_and_msbs (c : Config) (x : BitVec c.W) : isBoolWord c (x &&& msbs c) = true :=
  BitVec.and_comm _ _ ▸ isBoolWord_and_left (isBoolWord_msbs c) x

theorem isBoolWord_xor (hx : isBoolWord c x = true) (hy : isBoolWord c y = true) : isBoolWord c (x ^^^ y) = true := by
  refine isBoolWord_iff.mpr fun n hbit => ?_
  by_cases hxn : x.getLsbD n = true
  · exact isBoolWord_iff.mp hx n hxn
  · exact isBoolWord_iff.mp hy n (by simpa [hxn] using hbit)

/-- A word each lane of which is 0 or its most significant bit alone is a Boolean Lane Word. -/
theorem isBoolWord_of_lanes (h : ∀ k < c.L, laneNat c.N x k = 0 ∨ laneNat c.N x k = 2 ^ (c.N - 1)) :
    isBoolWord c x = true := by
  refine isBoolWord_iff.mpr fun n hbit => ?_
  have hlane := getLsbD_eq_testBit_laneNat x (n / c.N) (Nat.mod_lt n c.lane_pos)
  rw [Nat.div_add_mod', hbit] at hlane
  rcases h _ (bit_lane_lt c (BitVec.lt_of_getLsbD hbit)) with hzero | htop
  · simp [hzero] at hlane
  · simpa [htop, Nat.testBit_two_pow, eq_comm] using hlane

theorem isBoolWord_geWord (c : Config) (a : BitVec c.W) (K : Nat) : isBoolWord c (geWord c.N a K) = true := by
  refine isBoolWord_of_lanes fun k hk => ?_
  rw [laneNat_geWord c a K hk]
  exact (ite_eq_or_eq ..).symm

/-- The 1 bit at position n of a Boolean Lane Word is the truth bit of its lane. -/
theorem laneTrue_of_getLsbD (h : isBoolWord c x = true) {n : Nat} (hbit : x.getLsbD n = true) :
    laneTrue c.N x (n / c.N) = true := by
  have hposition := (truthBit_eq_iff c).mpr ⟨rfl, isBoolWord_iff.mp h n hbit⟩
  rwa [laneTrue, ← hposition]

/-- Two Boolean Lane Words with the same true lanes are equal. -/
theorem eq_of_laneTrue (hx : isBoolWord c x = true) (hy : isBoolWord c y = true)
    (h : ∀ k < c.L, laneTrue c.N x k = laneTrue c.N y k) : x = y := by
  refine BitVec.eq_of_getLsbD_eq fun n hn => ?_
  by_cases hplace : n % c.N = c.N - 1
  · have hlane := h _ (bit_lane_lt c hn)
    rwa [laneTrue, laneTrue, ← (truthBit_eq_iff c).mpr ⟨rfl, hplace⟩] at hlane
  · rw [Bool.eq_false_iff.mpr (mt (isBoolWord_iff.mp hx n) hplace),
      Bool.eq_false_iff.mpr (mt (isBoolWord_iff.mp hy n) hplace)]

/-- A Boolean Lane Word is not 0 exactly when some lane is true (R193). -/
theorem ne_zero_iff_exists_laneTrue (h : isBoolWord c x = true) :
    x ≠ 0 ↔ ∃ k < c.L, laneTrue c.N x k = true := by
  constructor
  · intro hne
    obtain ⟨p, hp⟩ := Option.ne_none_iff_exists'.mp (mt ctz?_eq_none.mp hne)
    obtain ⟨hbit, -⟩ := ctz?_eq_some.mp hp
    exact ⟨p / c.N, bit_lane_lt c (BitVec.lt_of_getLsbD hbit), laneTrue_of_getLsbD h hbit⟩
  · rintro ⟨k, -, htrue⟩ rfl
    simp [laneTrue] at htrue

/-- Clearing the truth bit of a lane of a Boolean Lane Word clears the lane (R191). -/
theorem and_not_oneBit_eq_and_not_laneMask (h : isBoolWord c x = true) (i : Nat) :
    x &&& ~~~oneBit c.W (i * c.N + c.N - 1) = x &&& ~~~laneMask c.W c.N i := by
  refine BitVec.eq_of_getLsbD_eq fun n hn => ?_
  rw [getLsbD_and_not_laneMask c.lane_pos x i hn, BitVec.getLsbD_and, BitVec.getLsbD_not, getLsbD_oneBit]
  cases hbit : x.getLsbD n with
  | false => rfl
  | true =>
    have hposition := truthBit_eq_iff c (n := n) (k := i)
    rw [isBoolWord_iff.mp h n hbit, eq_comm] at hposition
    simp [hn, hposition]

end boolWord

/-! ### BCLEAR, BEST and BANY -/

section operations
variable {s : State}

/-- What BCLEAR answers, and when (R191). -/
theorem answers_bclear_iff {i : SmallField} {v : BitVec s.cfg.W} : Answers (.bclear i) s v ↔
    1 < s.cfg.N ∧ i.toNat < s.cfg.L ∧ v = s.a &&& ~~~oneBit s.cfg.W (i.toNat * s.cfg.N + s.cfg.N - 1) := by
  rw [Answers, exec, execBclear, whenLegal_eq_next, requireLane_eq_next, deliver_eq_next_setR]
  simp [legality]

theorem bclear_fault {i : SmallField} (hN : 1 < s.cfg.N) (hi : s.cfg.L ≤ i.toNat) :
    exec (.bclear i) s = .fault (.laneIndexOutOfRange i.toNat) := by
  have hlegal : legality s.cfg (.bclear i) = none := if_pos hN
  rw [exec, execBclear, whenLegal_of_legal hlegal, requireLane_of_ge hi]

/-- BEST does what TOP does (R192). -/
theorem exec_best_eq_exec_top (hN : 1 < s.cfg.N) : exec .best s = exec .top s := by
  have hlegal : legality s.cfg .best = none := if_pos hN
  exact whenLegal_of_legal (k := execTop) hlegal

theorem answers_bany (hN : 1 < s.cfg.N) : Answers .bany s (flagWord s.cfg.W (s.a != 0)) := by
  have hlegal : legality s.cfg .bany = none := if_pos hN
  rw [Answers, exec, execBany, whenLegal_of_legal hlegal, deliver_eq]

end operations

/-! ### The statements -/

/-- Settles O49: BCLEAR's mask has every bit but one, the only bit of lane i that can be 1 in a Boolean Lane Word. -/
theorem bclearClearsOneTruthBit : Obligations.BclearClearsOneTruthBit := by
  refine fun i s => ⟨encodes_formula (instr := .bclear i) rfl, rfl, fun hN hi =>
    ⟨_, answers_bclear_iff.mpr ⟨hN, hi, rfl⟩, fun n hn => ?_, fun hbool => ?_⟩, bclear_fault,
    fun hN => exec_eq_refused.mpr (if_neg hN.not_gt)⟩
  · rw [BitVec.getLsbD_and, BitVec.getLsbD_not, getLsbD_oneBit]
    simp [hn, eq_comm]
  · rw [and_not_oneBit_eq_and_not_laneMask hbool]
    exact answers_clear hi

/-- Settles O50: in a Boolean Lane Word the highest set bit is the truth bit of the highest true lane. -/
theorem bestAnswersHighestTrueLane : Obligations.BestAnswersHighestTrueLane := by
  refine fun s => ⟨⟨rfl, rfl⟩, rfl, fun hN hne => ?_, fun hN hzero => (exec_best_eq_exec_top hN).trans (top_fault hzero),
    fun hN => exec_eq_refused.mpr (if_neg hN.not_gt)⟩
  obtain ⟨p, hmsb⟩ := Option.ne_none_iff_exists'.mp (mt msb?_eq_none.mp hne)
  obtain ⟨hbit, -⟩ := msb?_eq_some.mp hmsb
  obtain ⟨hlane, -, habove⟩ := highestLane_of_msb hmsb
  refine ⟨_, (exec_best_eq_exec_top hN).trans (answers_top hmsb), answers_top hmsb, fun hbool => ?_⟩
  rw [laneIndex_toNat s.cfg hlane]
  exact ⟨hlane, laneTrue_of_getLsbD hbool hbit, fun m hm => laneTrue_of_laneNat_eq_zero s.cfg (habove m hm)⟩

/-- Settles O51: a Boolean Lane Word is 0 exactly when no lane is true. -/
theorem banySaysWhetherAnyLaneIsTrue : Obligations.BanySaysWhetherAnyLaneIsTrue := by
  refine fun s => ⟨⟨rfl, rfl⟩, rfl, fun hN => ⟨_, answers_bany hN, ?_, fun hbool => ?_⟩,
    fun hN => exec_eq_refused.mpr (if_neg hN.not_gt)⟩
  · have hzero : s.a.toNat = 0 ↔ s.a = 0 := (BitVec.toNat_eq (y := 0)).symm
    by_cases h : s.a = 0 <;> simp [flagWord_toNat, hzero, h]
  · rw [flagWord_toNat, ← ne_zero_iff_exists_laneTrue hbool]
    simp

/-- Settles O52: GE's lanes are 0 or a truth bit, GEMSBOFF ends with MSBS, and BNOT and BCLEAR change truth bits alone. -/
theorem producersKeepBoolInvariant : Obligations.ProducersKeepBoolInvariant := by
  intro instr s v hkind hoperand hanswer
  cases instr with
  | ge =>
    obtain ⟨-, -, rfl⟩ := answers_ge_iff.mp hanswer
    exact isBoolWord_geWord ..
  | gemsboff =>
    obtain ⟨-, -, rfl⟩ := answers_gemsboff_iff.mp hanswer
    exact isBoolWord_and_msbs ..
  | bnot =>
    obtain ⟨-, rfl⟩ := answers_bnot_iff.mp hanswer
    exact isBoolWord_xor (hoperand rfl) (isBoolWord_msbs _)
  | bclear i =>
    obtain ⟨-, -, rfl⟩ := answers_bclear_iff.mp hanswer
    exact isBoolWord_and_left (hoperand rfl) _
  | _ => cases hkind

end Sys2Proof.Machine
end

section
/-! PROOFS. Programs (`30_encoding.md` R60 to R63): what the check of a statement asks for, and what performing a checked
statement does. -/

namespace Sys2Proof.Machine

/-! ### Names in scope -/

theorem kindOf_cons (e : Name × Kind) (scope : Scope) (n : Name) :
    Scope.kindOf (e :: scope) n = if e.1 = n then some e.2 else scope.kindOf n := by
  rw [Scope.kindOf, List.find?_cons]
  by_cases h : e.1 = n
  · simp [h]
  · rw [beq_false_of_ne h, if_neg h]
    rfl

/-- The scope of a state has the kind of every bound name (R63). -/
theorem kindOf_scope (s : State) (n : Name) : s.scope.kindOf n = (s.lookup n).map (·.kind) := by
  simp only [Scope.kindOf, State.scope, State.lookup, List.find?_map, Option.map_map]
  rfl

theorem isSome_valueOf (s : State) (n : Name) : (s.valueOf n).isSome = (s.scope.kindOf n).isSome := by
  simp [State.valueOf, kindOf_scope]

theorem valueOf_eq_none {s : State} {n : Name} : s.valueOf n = none ↔ s.scope.kindOf n = none := by
  rw [← Option.not_isSome_iff_eq_none, isSome_valueOf, Option.not_isSome_iff_eq_none]

theorem defineFresh_eq_ok {scope : Scope} {dst : Name} {k : Kind} {e : Name × Kind} :
    defineFresh scope dst k = .ok e ↔ scope.kindOf dst = none ∧ (dst, k) = e := by
  unfold defineFresh
  cases scope.kindOf dst <;> simp

theorem duplicateName?_cons_eq_none {e : Name × Kind} {scope : Scope} :
    duplicateName? (e :: scope) = none ↔ scope.kindOf e.1 = none ∧ duplicateName? scope = none := by
  rw [duplicateName?]
  cases Scope.kindOf scope e.1 <;> simp

/-! ### Operands -/

section checkOperand
variable {c : Config} {scope : Scope} {want : Option Kind}

theorem checkOperand_unwritten : checkOperand c scope want none = none ↔ want = none := by
  cases want <;> simp [checkOperand]

theorem checkOperand_name {n : Name} : checkOperand c scope want (some (.name n)) = none ↔
    ∃ k, scope.kindOf n = some k ∧ kindAccepted want k = true := by
  rw [checkOperand]
  cases scope.kindOf n <;> simp

theorem checkOperand_lit {v : Nat} : checkOperand c scope want (some (.lit v)) = none ↔
    v < 2 ^ c.W ∧ kindAccepted want .word = true := by
  rw [checkOperand]
  by_cases h : v < 2 ^ c.W <;> simp [h]

end checkOperand

section sourceValue
variable {s : State} {n : Name} {v : BitVec s.cfg.W}

theorem sourceValue_name : s.sourceValue (.name n) = .ok v ↔ ∃ e, s.lookup n = some e ∧ e.value = v := by
  rw [State.sourceValue]
  cases s.lookup n <;> simp

theorem sourceValue_lit {m : Nat} : s.sourceValue (.lit m) = .ok v ↔ m < 2 ^ s.cfg.W ∧ BitVec.ofNat s.cfg.W m = v := by
  rw [State.sourceValue]
  by_cases h : m < 2 ^ s.cfg.W <;> simp [h]

/-- An operand that passes its check has a value (R60). -/
theorem exists_sourceValue {want : Option Kind} {x : Source} (h : checkOperand s.cfg s.scope want (some x) = none) :
    ∃ v, s.sourceValue x = .ok v := by
  cases x with
  | name n =>
    obtain ⟨k, hk, -⟩ := checkOperand_name.mp h
    rw [kindOf_scope, Option.map_eq_some_iff] at hk
    obtain ⟨e, he, -⟩ := hk
    exact ⟨e.value, sourceValue_name.mpr ⟨e, he, rfl⟩⟩
  | lit m => exact ⟨_, sourceValue_lit.mpr ⟨(checkOperand_lit.mp h).1, rfl⟩⟩

theorem exists_lineValue {want : Option Kind} {x : Option Source} (h : checkOperand s.cfg s.scope want x = none)
    (held : BitVec s.cfg.W) : ∃ v, s.lineValue held x = .ok v := by
  cases x with
  | none => exact ⟨held, rfl⟩
  | some x => exact exists_sourceValue h

/-- The values of operands are those of the names bound, whatever is pending (R60). -/
theorem sourceValue_with_pending {x : Source} (h : s.sourceValue x = .ok v) (pending : List Stmt) :
    ({ s with pending := pending } : State).sourceValue x = .ok v := by
  cases x with
  | name n =>
    obtain ⟨e, hlookup, hvalue⟩ := sourceValue_name.mp h
    exact sourceValue_name.mpr ⟨e, hlookup, hvalue⟩
  | lit m => exact sourceValue_lit.mpr (sourceValue_lit.mp h)

theorem lineValue_with_pending {x : Option Source} {held : BitVec s.cfg.W} (h : s.lineValue held x = .ok v)
    (pending : List Stmt) : ({ s with pending := pending } : State).lineValue held x = .ok v := by
  cases x with
  | none => exact h
  | some x => exact sourceValue_with_pending h pending

end sourceValue

/-! ### The check of a statement -/

/-- What a statement adds to the scope: its name, with the kind its result has (R54, R61). -/
def Stmt.entry : Stmt → Name × Kind
  | .transact dst cw _ _ => (dst, resultKindOf cw)
  | .wrap dst _ | .raw dst _ => (dst, .word)

@[simp] theorem Stmt.entry_fst (st : Stmt) : st.entry.1 = st.dst := by cases st <;> rfl

theorem resultKindOf_eq {cw : ControlWord} {instr : Instr} (h : decode cw = .ok instr) :
    resultKindOf cw = resultKind instr := by simp [resultKindOf, h]

section checkStmt
variable {c : Config} {scope : Scope} {dst : Name} {e : Name × Kind}

theorem checkStmt_transact {cw : ControlWord} {x y : Option Source} :
    checkStmt c scope (.transact dst cw x y) = .ok e ↔ ∃ instr, requestInstr c cw = .ok instr ∧
      checkOperand c scope (aKind instr) x = none ∧ checkOperand c scope (bKind instr) y = none ∧
      scope.kindOf dst = none ∧ (dst, resultKind instr) = e := by
  rw [checkStmt]
  cases requestInstr c cw with
  | error r => simp
  | ok instr =>
    cases hx : checkOperand c scope (aKind instr) x with
    | some r => simp [hx]
    | none => cases hy : checkOperand c scope (bKind instr) y <;> simp [hx, hy, defineFresh_eq_ok]

/-- The check of WRAP, and of RAW, which is the same (R61). -/
theorem checkStmt_wrap {x : Source} : checkStmt c scope (.wrap dst x) = .ok e ↔
    checkOperand c scope (some .word) (some x) = none ∧ scope.kindOf dst = none ∧ (dst, .word) = e := by
  rw [checkStmt]
  cases checkOperand c scope (some .word) (some x) <;> simp [defineFresh_eq_ok]

/-- A statement that passes its check defines a name that was not defined before (R63). -/
theorem entry_of_checkStmt {st : Stmt} (h : checkStmt c scope st = .ok e) : scope.kindOf st.dst = none ∧ st.entry = e := by
  cases st with
  | transact dst cw x y =>
    obtain ⟨instr, hrequest, -, -, hfresh, rfl⟩ := checkStmt_transact.mp h
    exact ⟨hfresh, by rw [Stmt.entry, resultKindOf_eq (requestInstr_eq_ok.mp hrequest).1]⟩
  | wrap dst x | raw dst x => exact (checkStmt_wrap.mp h).2

end checkStmt

/-! ### Performing a statement -/

section perform
variable {s : State}

theorem perform_transact_of_values {dst : Name} {cw : ControlWord} {x y : Option Source} {instr : Instr}
    {va vb : BitVec s.cfg.W} (hdecode : decode cw = .ok instr) (hx : s.lineValue s.a x = .ok va)
    (hy : s.lineValue s.b y = .ok vb) : perform s (.transact dst cw x y) =
      andThen (exec instr (s.drive cw va vb)) fun t => .next (t.define dst (resultKind instr) t.r) := by
  simp [perform, hx, hy, transact_of_decode hdecode, resultKindOf_eq hdecode]

/-- What WRAP performs, and RAW, which is the same (R61). -/
theorem perform_wrap_of_value {dst : Name} {x : Source} {v : BitVec s.cfg.W} (hx : s.sourceValue x = .ok v) :
    perform s (.wrap dst x) = .next (s.define dst .word v) := by simp [perform, hx]

theorem perform_wrap_eq_next {t : State} {dst : Name} {x : Source} (h : perform s (.wrap dst x) = .next t) :
    ∃ v, s.sourceValue x = .ok v ∧ s.define dst .word v = t := by
  rw [perform] at h
  cases hx : s.sourceValue x with
  | error r => simp [hx] at h
  | ok v => exact ⟨v, rfl, by simpa [hx] using h⟩

/-- A statement that passes its check is not refused when it is performed (R213). -/
theorem perform_ne_refused {st : Stmt} {e : Name × Kind} (hcheck : checkStmt s.cfg s.scope st = .ok e) (x : Refusal) :
    perform s st ≠ .refused x := by
  cases st with
  | transact dst cw a b =>
    obtain ⟨instr, hrequest, ha, hb, -, -⟩ := checkStmt_transact.mp hcheck
    obtain ⟨hdecode, hlegal⟩ := requestInstr_eq_ok.mp hrequest
    obtain ⟨va, hva⟩ := exists_lineValue ha s.a
    obtain ⟨vb, hvb⟩ := exists_lineValue hb s.b
    have hexec : exec instr (s.drive cw va vb) ≠ .refused x := fun h => by
      simpa [hlegal] using exec_eq_refused.mp h
    rw [perform_transact_of_values hdecode hva hvb]
    cases h : exec instr (s.drive cw va vb) with
    | next t => simp
    | fault f => simp [andThen]
    | refused y => exact fun hy => hexec (h.trans hy)
  | wrap dst a | raw dst a =>
    obtain ⟨v, hv⟩ := exists_sourceValue (checkStmt_wrap.mp hcheck).1
    simp [perform, hv]

/-- What a statement that completes leaves: the instance, the statements after it, and one name more (R63). -/
structure Performed (s : State) (entry : Name × Kind) (t : State) : Prop where
  cfg : t.cfg = s.cfg
  pending : t.pending = s.pending
  recorded : t.recorded = s.recorded
  scope : t.scope = entry :: s.scope
  valueOf : ∀ n, entry.1 ≠ n → t.valueOf n = s.valueOf n

theorem lookup_define (s : State) (dst : Name) (k : Kind) (v : BitVec s.cfg.W) (n : Name) :
    (s.define dst k v).lookup n = if dst = n then some ⟨dst, k, v⟩ else s.lookup n := by
  show List.find? (fun e : Binding s.cfg.W => e.name == n) (⟨dst, k, v⟩ :: s.bound) = _
  rw [List.find?_cons]
  by_cases h : dst = n
  · simp [h]
  · rw [beq_false_of_ne h, if_neg h]
    rfl

theorem valueOf_define (s : State) (dst : Name) (k : Kind) (v : BitVec s.cfg.W) (n : Name) :
    (s.define dst k v).valueOf n = if dst = n then some (k, v.toNat) else s.valueOf n := by
  rw [State.valueOf, lookup_define]
  split <;> rfl

theorem valueOf_define_self (s : State) (dst : Name) (k : Kind) (v : BitVec s.cfg.W) :
    (s.define dst k v).valueOf dst = some (k, v.toNat) := (valueOf_define ..).trans (if_pos rfl)

theorem performed_define (s : State) (cw : ControlWord) (a b r : BitVec s.cfg.W) (dst : Name) (k : Kind)
    (v : BitVec s.cfg.W) : Performed s (dst, k) (((s.drive cw a b).setR r).define dst k v) where
  cfg := rfl
  pending := rfl
  recorded := rfl
  scope := rfl
  valueOf _ hn := (valueOf_define ..).trans (if_neg hn)

/-- A transaction that completes binds its name to what its operation put on `r`. -/
theorem perform_transact_next {t : State} {dst : Name} {cw : ControlWord} {x y : Option Source}
    (h : perform s (.transact dst cw x y) = .next t) : ∃ instr va vb v, decode cw = .ok instr ∧
      s.lineValue s.a x = .ok va ∧ s.lineValue s.b y = .ok vb ∧ Answers instr (s.drive cw va vb) v ∧
      ((s.drive cw va vb).setR v).define dst (resultKind instr) v = t := by
  obtain ⟨va, vb, u, hva, hvb, htransact, rfl⟩ := perform_transact_eq_next h
  obtain ⟨instr, hdecode, hexec⟩ := transact_eq_next.mp htransact
  obtain ⟨v, rfl⟩ := exec_writesOnlyR instr _ u hexec
  exact ⟨instr, va, vb, v, hdecode, hva, hvb, hexec, by rw [resultKindOf_eq hdecode]; rfl⟩

theorem performed_of_next {st : Stmt} {t : State} (h : perform s st = .next t) : Performed s st.entry t := by
  cases st with
  | transact dst cw x y =>
    obtain ⟨instr, va, vb, v, hdecode, -, -, -, rfl⟩ := perform_transact_next h
    rw [Stmt.entry, resultKindOf_eq hdecode]
    exact performed_define s cw va vb v dst _ v
  | wrap dst x | raw dst x =>
    obtain ⟨v, -, rfl⟩ := perform_wrap_eq_next h
    exact performed_define s s.cw s.a s.b s.r dst .word v

end perform

/-! ### Programs -/

theorem programScope_cons {c : Config} {scope scope' : Scope} {st : Stmt} {rest : List Stmt} :
    programScope c scope (st :: rest) = .ok scope' ↔
      ∃ e, checkStmt c scope st = .ok e ∧ programScope c (e :: scope) rest = .ok scope' := by
  rw [programScope]
  cases checkStmt c scope st <;> simp

/-- A program is well-formed where no name is bound twice and every statement passes its check (R62, R63). -/
theorem programRefusal_eq_none {s : State} : s.programRefusal = none ↔
    duplicateName? s.scope = none ∧ ∃ scope, programScope s.cfg s.scope s.pending = .ok scope := by
  rw [State.programRefusal]
  cases duplicateName? s.scope <;> simp [checkProgram_eq_none]

section accepted
variable {s : State} {st : Stmt} {rest : List Stmt}

/-- The next statement of a well-formed program passes its check. -/
theorem checkStmt_of_programRefusal (h : s.programRefusal = none) (hpending : s.pending = st :: rest) :
    checkStmt s.cfg s.scope st = .ok st.entry := by
  obtain ⟨-, scope, hscope⟩ := programRefusal_eq_none.mp h
  rw [hpending] at hscope
  obtain ⟨e, hcheck, -⟩ := programScope_cons.mp hscope
  rwa [(entry_of_checkStmt hcheck).2]

/-- What is left of a well-formed program after a statement is well-formed (R63). -/
theorem programRefusal_of_performed {t : State} (h : s.programRefusal = none) (hpending : s.pending = st :: rest)
    (hperformed : Performed { s with pending := rest } st.entry t) : t.programRefusal = none := by
  obtain ⟨hdup, scope, hscope⟩ := programRefusal_eq_none.mp h
  rw [hpending] at hscope
  obtain ⟨e, hcheck, hrest⟩ := programScope_cons.mp hscope
  obtain ⟨hfresh, rfl⟩ := entry_of_checkStmt hcheck
  rw [programRefusal_eq_none, hperformed.scope, hperformed.cfg, hperformed.pending, duplicateName?_cons_eq_none]
  exact ⟨⟨st.entry_fst ▸ hfresh, hdup⟩, scope, hrest⟩

/-- A step of an accepted program faults, or performs the next statement and leaves an accepted program. -/
theorem step_of_accepted_cases (h : s.Accepted) (hpending : s.pending = st :: rest) : (∃ f, step s = .fault f) ∨
    ∃ t, step s = .next t ∧ Performed { s with pending := rest } st.entry t ∧ t.Accepted := by
  obtain ⟨hrec, hprogram⟩ := h
  have hcheck := checkStmt_of_programRefusal hprogram hpending
  rw [step_of_accepted ⟨hrec, hprogram⟩ hpending]
  cases hperform : perform { s with pending := rest } st with
  | fault f => exact .inl ⟨f, rfl⟩
  | refused x => exact absurd hperform (perform_ne_refused (s := { s with pending := rest }) hcheck x)
  | next t =>
    have hperformed := performed_of_next hperform
    exact .inr ⟨t, rfl, hperformed, hperformed.recorded.trans hrec,
      programRefusal_of_performed hprogram hpending hperformed⟩

end accepted

/-- Settles O11: the statement passed the check of the program, and its operands have the values driven. -/
theorem stepRunsNextStatement : Obligations.StepRunsNextStatement := by
  intro s dst cw x y rest instr va vb haccepted hpending hdecode hx hy
  rw [step_of_accepted haccepted hpending]
  exact perform_transact_of_values (s := { s with pending := rest }) hdecode
    (lineValue_with_pending hx rest) (lineValue_with_pending hy rest)

/-- Settles O12: performing WRAP or RAW binds the name and nothing else. -/
theorem wrapAndRawPerformNoTransaction : Obligations.WrapAndRawPerformNoTransaction := by
  intro s dst x rest st v haccepted hpending hst hx
  rw [step_of_accepted haccepted hpending]
  have hwrap : perform { s with pending := rest } (.wrap dst x) = _ :=
    perform_wrap_of_value (sourceValue_with_pending hx rest)
  rcases hst with rfl | rfl
  · exact hwrap
  · exact hwrap

/-- Settles O21: neither a transaction nor a statement writes the instance. -/
theorem parametersNeverChange : Obligations.ParametersNeverChange := by
  intro s t h
  obtain ⟨-, ⟨-, hissue⟩ | ⟨st, rest, -, -, hperform⟩⟩ := step_eq_next h
  · obtain ⟨instr, -, hexec⟩ := transact_eq_next.mp hissue
    obtain ⟨v, rfl⟩ := exec_writesOnlyR instr s t hexec
    rfl
  · exact (performed_of_next hperform).cfg

/-- Settles O15: word 0 is ZERO, whose answer 0 the port `r` holds already. -/
theorem idleLinesReadZero : Obligations.IdleLinesReadZero :=
  ⟨fun c => (step_of_pending_nil rfl rfl).trans ((transact_of_decode (cw := 0) rfl _).trans (answers_zero (State.load c [] []))),
    rfl, fun _ _ _ => rfl⟩

/-- Settles O56: the earlier statements leave the scope in which this one meets its check, and the operand's kind, a Word,
is not the Bool the operation takes. -/
theorem kindMismatchRefused : Obligations.KindMismatchRefused := by
  intro s before rest dst cw x y instr scope hrec hdup hpending hbefore hrequest hkind hword
  have hoperand : checkOperand s.cfg scope (aKind instr) (some x) = some .kindMismatch := by
    rcases hword with ⟨n, rfl, hn⟩ | ⟨v, rfl, hv⟩
    · simp [checkOperand, hkind, hn, kindAccepted]
    · simp [checkOperand, hkind, hv, kindAccepted]
  have hprogram : s.programRefusal = some .kindMismatch := by
    simp only [State.programRefusal, hdup, checkProgram_eq_some, hpending, programScope_append, hbefore]
    simp [Except.bind, programScope, checkStmt, hrequest, hoperand]
  refine ⟨?_, by simp [runProgram, hprogram]⟩
  obtain ⟨st, rest', hcons⟩ := List.exists_cons_of_ne_nil (show s.pending ≠ [] by simp [hpending])
  exact step_of_refused hrec hcons hprogram

end Sys2Proof.Machine
end

section
/-! PROOFS. What every step keeps: the invariant of kind Bool (`10_state.md` R24), and that a run once begun is not refused
(`60_exceptions.md` R213). -/

namespace Sys2Proof.Machine

/-! ### The invariant of kind Bool -/

section boolsKept
variable {s : State}

theorem State.BoolsKept.define (h : s.BoolsKept) {dst : Name} {k : Kind} {v : BitVec s.cfg.W}
    (hv : k = .bool → isBoolWord s.cfg v = true) : (s.define dst k v).BoolsKept := by
  intro e he hkind
  rcases List.mem_cons.mp he with rfl | he
  · exact hv hkind
  · exact h e he hkind

/-- An operand that may stand for a Bool is a name of kind Bool, so its value has the invariant (R62). -/
theorem isBoolWord_of_checkOperand (h : s.BoolsKept) {x : Option Source} {held v : BitVec s.cfg.W}
    (hcheck : checkOperand s.cfg s.scope (some .bool) x = none) (hvalue : s.lineValue held x = .ok v) :
    isBoolWord s.cfg v = true := by
  match x with
  | none => cases checkOperand_unwritten.mp hcheck
  | some (.lit m) => cases (checkOperand_lit.mp hcheck).2
  | some (.name n) =>
    obtain ⟨k, hscope, haccepted⟩ := checkOperand_name.mp hcheck
    obtain ⟨e, hlookup, rfl⟩ := sourceValue_name.mp hvalue
    rw [kindOf_scope, hlookup, Option.map_some, Option.some.injEq] at hscope
    refine h e (List.mem_of_find?_eq_some hlookup) ?_
    cases k with
    | word => cases haccepted
    | bool => exact hscope

/-- A statement that passes its check binds a word of its kind: a Bool comes from a producer whose operand, where it must
be a Bool, is one (R195). -/
theorem boolsKept_of_perform (h : s.BoolsKept) {st : Stmt} {t : State} {e : Name × Kind}
    (hcheck : checkStmt s.cfg s.scope st = .ok e) (hperform : perform s st = .next t) : t.BoolsKept := by
  cases st with
  | transact dst cw x y =>
    obtain ⟨instr, hrequest, hx, -, -, -⟩ := checkStmt_transact.mp hcheck
    obtain ⟨instr', va, vb, v, hdecode, hva, -, hanswers, rfl⟩ := perform_transact_next hperform
    obtain rfl : instr = instr' := Except.ok.inj ((requestInstr_eq_ok.mp hrequest).1.symm.trans hdecode)
    refine State.BoolsKept.define (s := (s.drive cw va vb).setR v) h fun hkind => ?_
    refine producersKeepBoolInvariant instr (s.drive cw va vb) v hkind (fun haKind => ?_) hanswers
    rw [haKind] at hx
    exact isBoolWord_of_checkOperand h hx hva
  | wrap dst x | raw dst x =>
    obtain ⟨v, -, rfl⟩ := perform_wrap_eq_next hperform
    exact h.define nofun

end boolsKept

/-- Settles O53: a transaction of the lines binds nothing, and a statement is performed only where it passes its check. -/
theorem stepKeepsBoolInvariant : Obligations.StepKeepsBoolInvariant := by
  intro s t hkept h
  obtain ⟨-, ⟨-, hissue⟩ | ⟨st, rest, hpending, hprogram, hperform⟩⟩ := step_eq_next h
  · obtain ⟨instr, -, hexec⟩ := transact_eq_next.mp hissue
    obtain ⟨v, rfl⟩ := exec_writesOnlyR instr s t hexec
    exact hkept
  · have hcheck := checkStmt_of_programRefusal hprogram hpending
    exact boolsKept_of_perform (s := { s with pending := rest }) hkept hcheck hperform

/-- Settles O54: nothing is bound or pending at reset, and word 0 is ZERO. -/
theorem resetMeetsInvariants : Obligations.ResetMeetsInvariants := ⟨nofun, ⟨.zero, rfl⟩, rfl, rfl⟩

/-! ### No refusal after the first step -/

/-- The lines after a statement that passes its check hold a legal request: its own, or those before a WRAP or RAW. -/
theorem linesLegal_of_perform {s t : State} (h : s.LinesLegal) {st : Stmt} {e : Name × Kind}
    (hcheck : checkStmt s.cfg s.scope st = .ok e) (hperform : perform s st = .next t) : t.LinesLegal := by
  cases st with
  | transact dst cw x y =>
    obtain ⟨instr, hrequest, -, -, -, -⟩ := checkStmt_transact.mp hcheck
    obtain ⟨-, -, -, -, -, -, -, -, rfl⟩ := perform_transact_next hperform
    exact ⟨instr, hrequest⟩
  | wrap dst x | raw dst x =>
    obtain ⟨v, -, rfl⟩ := perform_wrap_eq_next hperform
    exact h

/-- A step from legal lines, with nothing pending or an accepted program, is not refused (R213). -/
theorem step_ne_refused {s : State} (hlines : s.LinesLegal) (hprogram : s.pending ≠ [] → s.programRefusal = none)
    (x : Refusal) : step s ≠ .refused x := by
  intro h
  cases hrec : s.recorded with
  | some f => cases (step_of_recorded hrec).symm.trans h
  | none =>
    cases hpending : s.pending with
    | nil =>
      obtain ⟨instr, hrequest⟩ := hlines
      rw [step_of_pending_nil hrec hpending, transact_eq_refused, hrequest] at h
      cases h
    | cons st rest =>
      have hwellFormed := hprogram (by simp [hpending])
      rcases step_of_accepted_cases ⟨hrec, hwellFormed⟩ hpending with ⟨f, hf⟩ | ⟨t, ht, -⟩
      · cases hf.symm.trans h
      · cases ht.symm.trans h

/-- Settles O55: a step leaves legal lines, and what is left of a well-formed program is well-formed. -/
theorem acceptedRunNeverRefused : Obligations.AcceptedRunNeverRefused := by
  intro s t hlines h
  obtain ⟨hrec, ⟨hpending, hissue⟩ | ⟨st, rest, hpending, hprogram, hperform⟩⟩ := step_eq_next h
  · obtain ⟨instr, -, hexec⟩ := transact_eq_next.mp hissue
    obtain ⟨v, rfl⟩ := exec_writesOnlyR instr s t hexec
    exact ⟨hlines, step_ne_refused (s := s.setR v) hlines (absurd hpending)⟩
  · have hcheck := checkStmt_of_programRefusal hprogram hpending
    have hlegal := linesLegal_of_perform (s := { s with pending := rest }) hlines hcheck hperform
    exact ⟨hlegal, step_ne_refused hlegal fun _ =>
      programRefusal_of_performed hprogram hpending (performed_of_next hperform)⟩

end Sys2Proof.Machine
end

section
/-! PROOFS. Runs of accepted programs (`30_encoding.md` R63): a run ends, keeps the names bound, and ends the same for every
order of its statements. -/

namespace Sys2Proof.Machine

/-- Every name bound in s has the same kind and value in t. -/
def State.KeptIn (s t : State) : Prop := ∀ n kv, s.valueOf n = some kv → t.valueOf n = some kv

theorem State.KeptIn.trans {s t u : State} (h : s.KeptIn t) (h' : t.KeptIn u) : s.KeptIn u :=
  fun n kv hn => h' n kv (h n kv hn)

section performed
variable {s t : State} {st : Stmt}

/-- A statement that passes its check and completes rebinds no name, and binds its own. -/
theorem Performed.keptIn (h : Performed s st.entry t) (hfresh : s.scope.kindOf st.dst = none) : s.KeptIn t := by
  intro n kv hn
  rw [h.valueOf n, hn]
  rintro rfl
  rw [st.entry_fst, valueOf_eq_none.mpr hfresh] at hn
  cases hn

theorem Performed.isSome_valueOf_dst (h : Performed s st.entry t) : (t.valueOf st.dst).isSome := by
  rw [isSome_valueOf, h.scope, kindOf_cons, if_pos st.entry_fst]
  rfl

end performed

/-! ### The end of a run (R63) -/

/-- What the end t of a run of an accepted program is to its beginning s. -/
structure RunEnd (s t : State) : Prop where
  cfg : t.cfg = s.cfg
  keptIn : s.KeptIn t
  pending : t.recorded = none → t.pending = []
  bound : t.recorded = none → ∀ st ∈ s.pending, (t.valueOf st.dst).isSome
  names : ∀ n, (t.valueOf n).isSome → (s.valueOf n).isSome ∨ ∃ st ∈ s.pending, st.dst = n

theorem runFor_cons {s t : State} {st : Stmt} {rest : List Stmt} (hrec : s.recorded = none)
    (hpending : s.pending = st :: rest) (hadvance : advance s = .ok t) (fuel : Nat) :
    runFor (fuel + 1) s = runFor fuel t := by simp [runFor, hrec, hpending, hadvance]

theorem advance_of_next {s t : State} (h : step s = .next t) : advance s = .ok t := by simp [advance, h]

/-- The run of an accepted program is not refused, and ends after the last statement or at a fault. -/
theorem exists_runEnd (p : List Stmt) : ∀ s : State, s.Accepted → s.pending = p →
    ∃ t, runFor p.length s = .ok t ∧ RunEnd s t := by
  induction p with
  | nil =>
    intro s _ hpending
    exact ⟨s, rfl, rfl, fun _ _ h => h, fun _ => hpending, fun _ st hst => by simp [hpending] at hst,
      fun _ => .inl⟩
  | cons st rest ih =>
    intro s haccepted hpending
    have hfresh := (entry_of_checkStmt (checkStmt_of_programRefusal haccepted.2 hpending)).1
    rcases step_of_accepted_cases haccepted hpending with ⟨f, hf⟩ | ⟨t, ht, hperformed, haccepted'⟩
    · refine ⟨{ s with recorded := some f }, ?_, rfl, fun _ _ h => h, nofun, nofun, fun _ => .inl⟩
      rw [List.length_cons, runFor_cons haccepted.1 hpending (advance_of_fault hf), runFor_of_recorded _ rfl]
    · obtain ⟨u, hrun, hend⟩ := ih t haccepted' hperformed.pending
      refine ⟨u, ?_, hend.cfg.trans hperformed.cfg, (hperformed.keptIn hfresh).trans hend.keptIn, hend.pending,
        fun hrec st' hst' => ?_, fun n hn => ?_⟩
      · rw [List.length_cons, runFor_cons haccepted.1 hpending (advance_of_next ht), hrun]
      · rw [hpending] at hst'
        rcases List.mem_cons.mp hst' with rfl | hst'
        · obtain ⟨kv, hkv⟩ := Option.isSome_iff_exists.mp hperformed.isSome_valueOf_dst
          rw [hend.keptIn _ kv hkv]
          rfl
        · exact hend.bound hrec st' (hperformed.pending ▸ hst')
      · rcases hend.names n hn with hn | ⟨st', hst', hdst⟩
        · by_cases hdst : st.entry.1 = n
          · exact .inr ⟨st, by simp [hpending], st.entry_fst ▸ hdst⟩
          · exact .inl (hperformed.valueOf n hdst ▸ hn)
        · rw [hperformed.pending] at hst'
          exact .inr ⟨st', by simp [hpending, hst'], hdst⟩

theorem runProgram_of_accepted {s : State} (h : s.Accepted) : runProgram s = runFor s.pending.length s := by
  simp [runProgram, h.2]

/-- Settles O57: the run's end, by induction on the statements. -/
theorem acceptedProgramEnds : Obligations.AcceptedProgramEnds := by
  intro s haccepted
  obtain ⟨t, hrun, hend⟩ := exists_runEnd s.pending s haccepted rfl
  rw [runProgram_of_accepted haccepted]
  exact ⟨t, hrun, hend.cfg, fun hrec => ⟨hend.pending hrec, hend.bound hrec⟩, hend.keptIn⟩

/-! ### The order of the statements -/

/-- Names bound in both states have the same values. -/
def SameValues (s s' : State) : Prop := ∀ n kv kv', s.valueOf n = some kv → s'.valueOf n = some kv' → kv.2 = kv'.2

theorem SameValues.of_keptIn {s s' t : State} (h : s.KeptIn t) (h' : s'.KeptIn t) : SameValues s s' := by
  intro n kv kv' hkv hkv'
  rw [Option.some.inj ((h n kv hkv).symm.trans (h' n kv' hkv'))]

section sameValues
variable {s s' : State} (hcfg : s'.cfg = s.cfg) (hsame : SameValues s s')
include hcfg hsame

theorem sourceValue_toNat_eq {x : Source} {v : BitVec s.cfg.W} {v' : BitVec s'.cfg.W} (h : s.sourceValue x = .ok v)
    (h' : s'.sourceValue x = .ok v') : v'.toNat = v.toNat := by
  cases x with
  | name n =>
    obtain ⟨e, hlookup, rfl⟩ := sourceValue_name.mp h
    obtain ⟨e', hlookup', rfl⟩ := sourceValue_name.mp h'
    refine (hsame n (e.kind, e.value.toNat) (e'.kind, e'.value.toNat) ?_ ?_).symm
    · rw [State.valueOf, hlookup, Option.map_some]
    · rw [State.valueOf, hlookup', Option.map_some]
  | lit m =>
    obtain ⟨-, rfl⟩ := sourceValue_lit.mp h
    obtain ⟨-, rfl⟩ := sourceValue_lit.mp h'
    rw [BitVec.toNat_ofNat, BitVec.toNat_ofNat, hcfg]

/-- An operand that is read is written, so its line does not depend on what the line held. -/
theorem lineValue_toNat_eq {want : Option Kind} {x : Option Source} {held v : BitVec s.cfg.W}
    {held' v' : BitVec s'.cfg.W} (hcheck : checkOperand s.cfg s.scope want x = none) (h : s.lineValue held x = .ok v)
    (h' : s'.lineValue held' x = .ok v') : want = none ∨ v'.toNat = v.toNat := by
  cases x with
  | none => exact .inl (checkOperand_unwritten.mp hcheck)
  | some x => exact .inr (sourceValue_toNat_eq hcfg hsame h h')

/-- A statement that completes in one state completes in every other in which it passes its check and its operands have
the same values, and gives its name the same value: a result is a function of the request (R20, R45). -/
theorem exists_perform_of_sameValues {st : Stmt} {e e' : Name × Kind} {t : State}
    (hcheck : checkStmt s.cfg s.scope st = .ok e) (hcheck' : checkStmt s'.cfg s'.scope st = .ok e')
    (hperform : perform s st = .next t) :
    ∃ t', perform s' st = .next t' ∧ t'.valueOf st.dst = t.valueOf st.dst := by
  cases st with
  | transact dst cw x y =>
    obtain ⟨instr, hrequest, hx, hy, -, -⟩ := checkStmt_transact.mp hcheck
    obtain ⟨_, -, hx', hy', -, -⟩ := checkStmt_transact.mp hcheck'
    obtain ⟨instr', va, vb, v, hdecode, hva, hvb, hanswers, rfl⟩ := perform_transact_next hperform
    obtain rfl : instr = instr' := Except.ok.inj ((requestInstr_eq_ok.mp hrequest).1.symm.trans hdecode)
    obtain ⟨va', hva'⟩ := exists_lineValue hx' s'.a
    obtain ⟨vb', hvb'⟩ := exists_lineValue hy' s'.b
    have hanswer : answer (exec instr (s'.drive cw va' vb')) = .value v.toNat :=
      calc answer (exec instr (s'.drive cw va' vb'))
        _ = answer (exec instr (s.drive cw va vb)) := answer_exec_congr hcfg
          (lineValue_toNat_eq hcfg hsame hx hva hva') (lineValue_toNat_eq hcfg hsame hy hvb hvb')
        _ = .value v.toNat := by rw [hanswers]; rfl
    obtain ⟨u, hu, hr⟩ := answer_eq_value.mp hanswer
    refine ⟨u.define dst (resultKind instr) u.r, ?_, ?_⟩
    · rw [perform_transact_of_values hdecode hva' hvb', hu, andThen_next]
    · rw [Stmt.dst, valueOf_define_self, hr]
      exact (valueOf_define_self ((s.drive cw va vb).setR v) dst _ v).symm
  | wrap dst x | raw dst x =>
    obtain ⟨v, hv, rfl⟩ := perform_wrap_eq_next hperform
    obtain ⟨v', hv'⟩ := exists_sourceValue (checkStmt_wrap.mp hcheck').1
    refine ⟨s'.define dst .word v', perform_wrap_of_value hv', ?_⟩
    rw [Stmt.dst, valueOf_define_self, valueOf_define_self, sourceValue_toNat_eq hcfg hsame hv hv']

end sameValues

/-- The value t has for the statement's name is the one the statement gives in some state whose names t keeps. -/
def Explains (t : State) (st : Stmt) : Prop :=
  ∃ s u, s.cfg = t.cfg ∧ checkStmt s.cfg s.scope st = .ok st.entry ∧ perform s st = .next u ∧ s.KeptIn t ∧ u.KeptIn t

/-- The end of a run without a fault explains every statement of the program. -/
theorem explains_of_runFor (p : List Stmt) : ∀ s t : State, s.Accepted → s.pending = p →
    runFor p.length s = .ok t → t.recorded = none → ∀ st ∈ p, Explains t st := by
  induction p with
  | nil => exact fun _ _ _ _ _ _ => nofun
  | cons st rest ih =>
    intro s t haccepted hpending hrun hrec
    have hcheck := checkStmt_of_programRefusal haccepted.2 hpending
    rcases step_of_accepted_cases haccepted hpending with ⟨f, hf⟩ | ⟨u, hu, hperformed, haccepted'⟩
    · rw [List.length_cons, runFor_cons haccepted.1 hpending (advance_of_fault hf), runFor_of_recorded _ rfl] at hrun
      obtain rfl := Except.ok.inj hrun
      cases hrec
    · rw [List.length_cons, runFor_cons haccepted.1 hpending (advance_of_next hu)] at hrun
      obtain ⟨t', hrun', hend⟩ := exists_runEnd rest u haccepted' hperformed.pending
      obtain rfl : t' = t := Except.ok.inj (hrun'.symm.trans hrun)
      have hkept := hperformed.keptIn (entry_of_checkStmt hcheck).1
      rw [step_of_accepted haccepted hpending] at hu
      intro st' hst'
      rcases List.mem_cons.mp hst' with rfl | hst'
      · exact ⟨{ s with pending := rest }, u, (hend.cfg.trans hperformed.cfg).symm, hcheck, hu, hkept.trans hend.keptIn,
          hend.keptIn⟩
      · exact ih u t' haccepted' hperformed.pending hrun hrec st' hst'

/-- A run whose statements are explained by t meets no fault, and t keeps what it binds. -/
theorem exists_runFor_of_explains (q : List Stmt) (t : State) : ∀ s : State, s.Accepted → s.pending = q →
    s.cfg = t.cfg → s.KeptIn t → (∀ st ∈ q, Explains t st) →
    ∃ u, runFor q.length s = .ok u ∧ u.recorded = none ∧ u.KeptIn t := by
  induction q with
  | nil => exact fun s haccepted _ _ hkept _ => ⟨s, rfl, haccepted.1, hkept⟩
  | cons st rest ih =>
    intro s haccepted hpending hcfg hkept hexplains
    have hcheck := checkStmt_of_programRefusal haccepted.2 hpending
    obtain ⟨s₁, t₁, hcfg₁, hcheck₁, hperform₁, hkept₁, hkept₁'⟩ := hexplains st (List.mem_cons_self ..)
    obtain ⟨u, hu, hvalue⟩ := exists_perform_of_sameValues (s' := { s with pending := rest }) (hcfg.trans hcfg₁.symm)
      (.of_keptIn hkept₁ hkept) hcheck₁ hcheck hperform₁
    have hperformed := performed_of_next hu
    have hstep : step s = .next u := (step_of_accepted haccepted hpending).trans hu
    have hukept : u.KeptIn t := by
      intro n kv hn
      by_cases hdst : st.entry.1 = n
      · obtain rfl : st.dst = n := st.entry_fst ▸ hdst
        exact hkept₁' _ kv (hvalue ▸ hn)
      · exact hkept n kv (hperformed.valueOf n hdst ▸ hn)
    rw [List.length_cons, runFor_cons haccepted.1 hpending (advance_of_next hstep)]
    exact ih u ⟨hperformed.recorded.trans haccepted.1, programRefusal_of_performed haccepted.2 hpending hperformed⟩
      hperformed.pending (hperformed.cfg.trans hcfg) hukept fun st' hst' => hexplains st' (List.mem_cons_of_mem _ hst')

/-- Settles O58: the end of the first run explains every statement; so the second run binds nothing that the first has
otherwise, and it binds the same names. -/
theorem statementOrderIrrelevant : Obligations.StatementOrderIrrelevant := by
  intro s t p q hperm hrec hq hrun hnofault
  have hqAccepted : ({ s with pending := q } : State).Accepted := ⟨hrec, hq⟩
  have hpAccepted : ({ s with pending := p } : State).Accepted := by
    refine ⟨hrec, ?_⟩
    cases hp : ({ s with pending := p } : State).programRefusal with
    | none => rfl
    | some x => simp [runProgram, hp] at hrun
  rw [runProgram_of_accepted hpAccepted] at hrun
  obtain ⟨t', hrun', hend⟩ := exists_runEnd p _ hpAccepted rfl
  obtain rfl : t' = t := Except.ok.inj (hrun'.symm.trans hrun)
  have hexplains : ∀ st ∈ q, Explains t' st := fun st hst =>
    explains_of_runFor p _ t' hpAccepted rfl hrun hnofault st (hperm.mem_iff.mpr hst)
  obtain ⟨u, hurun, hurec, hukept⟩ :=
    exists_runFor_of_explains q t' _ hqAccepted rfl hend.cfg.symm hend.keptIn hexplains
  obtain ⟨u', hurun', huend⟩ := exists_runEnd q _ hqAccepted rfl
  obtain rfl : u' = u := Except.ok.inj (hurun'.symm.trans hurun)
  refine ⟨u', (runProgram_of_accepted hqAccepted).trans hurun, hurec, fun n => ?_⟩
  have hnames : (t'.valueOf n).isSome → (u'.valueOf n).isSome := by
    intro hn
    rcases hend.names n hn with hn | ⟨st, hst, rfl⟩
    · obtain ⟨kv, hkv⟩ := Option.isSome_iff_exists.mp hn
      rw [huend.keptIn n kv hkv]
      rfl
    · exact huend.bound hurec st (hperm.mem_iff.mp hst)
  cases hu : u'.valueOf n with
  | some kv => exact (hukept n kv hu).symm
  | none =>
    rw [hu] at hnames
    exact (Option.not_isSome_iff_eq_none.mp (mt hnames Bool.false_ne_true)).symm

end Sys2Proof.Machine
end

section
/-! PROOFS. Instances (`00_scope.md` section 4, `60_exceptions.md` R212) and the Repeating-Pattern Generator
(`40_pattern.md`). -/

namespace Sys2Proof.Machine

/-! ### Elaboration and wiring -/

theorem elaborate_of_admitted {W N h : Nat} (latency : Nat) (hok : ParametersAdmitted W N h) :
    elaborate W N h latency = .ok ⟨W, N, h, latency, hok⟩ := dif_pos hok

theorem elaborate_of_not_admitted {W N h : Nat} (latency : Nat) (hbad : ¬ParametersAdmitted W N h) :
    elaborate W N h latency = .error .badConfiguration := dif_neg hbad

/-- Settles O3: the elaboration decides the parameters' rules, and a wiring is one of `wire`'s three cases. -/
theorem badConfigurationRefused : Obligations.BadConfigurationRefused := by
  refine ⟨fun W N h latency => ⟨fun hok => ⟨_, elaborate_of_admitted latency hok, rfl, rfl, rfl, rfl⟩,
    elaborate_of_not_admitted latency⟩, fun src dst => ⟨fun hsame hrec => ?_, fun f hsame hrec => ?_, fun hdiff => ?_⟩⟩
  · exact ⟨src.r.cast hsame.1, src.r.cast hsame.1, wire_eq_next.mpr ⟨hrec, hsame, rfl⟩,
      wire_eq_next.mpr ⟨hrec, hsame, rfl⟩, BitVec.toNat_cast .., BitVec.toNat_cast ..⟩
  · exact ⟨wire_eq_fault.mpr ⟨hsame, hrec⟩, wire_eq_fault.mpr ⟨hsame, hrec⟩⟩
  · exact ⟨wire_eq_refused.mpr ⟨hdiff, rfl⟩, wire_eq_refused.mpr ⟨hdiff, rfl⟩⟩

/-! ### Widths -/

theorem lane_powerOfTwo (c : Config) : ∃ k, c.N = 2 ^ k := ⟨_, (laneWidth_supported c).1⟩

theorem lanes_powerOfTwo (c : Config) : ∃ m, c.L = 2 ^ m := by
  obtain ⟨-, hword⟩ := laneWidth_supported c
  exact ⟨_, Nat.div_eq_of_eq_mul_right c.lane_pos hword⟩

/-- Settles O2: an admitted lane width is a supported pattern width, and a power of two up to W divides W. -/
theorem laneWidthsArePowersOfTwo : Obligations.LaneWidthsArePowersOfTwo := by
  refine ⟨fun c => ?_, fun W N hW => ⟨fun hN => ?_, ?_⟩⟩
  · obtain ⟨k, hk⟩ := lane_powerOfTwo c
    obtain ⟨m, hm⟩ := lanes_powerOfTwo c
    exact ⟨c.lanes_mul_width, k, m, hk, hm⟩
  · obtain ⟨k, hk⟩ := lane_powerOfTwo ⟨W, N, 2, 0, hW, hN, by decide⟩
    exact ⟨k, hk, hN.1, Nat.le_of_dvd (by omega) (Nat.dvd_of_mod_eq_zero hN.2)⟩
  · rintro ⟨k, rfl, hpos, hle⟩
    obtain ⟨j, rfl⟩ := word_powerOfTwo ⟨W, 1, 2, 0, hW, ⟨Nat.one_pos, Nat.mod_one W⟩, by decide⟩
    exact ⟨hpos, Nat.mod_eq_zero_of_dvd ((Nat.pow_dvd_pow_iff_pow_le_pow Nat.two_pos).mpr hle)⟩

/-- Settles O60: the powers of two up to W are the supported widths, and a width that is none has no pattern at all. -/
theorem patternWidthsSupported : Obligations.PatternWidthsSupported := by
  refine ⟨fun c p P => ⟨?_, fun v hv => ?_⟩, fun i s => ?_, fun c p hp => ?_⟩
  · rw [← and_assoc, ← patternWidth_iff c P]
    constructor
    · rintro ⟨v, hv⟩
      obtain ⟨hwidth, hfits, -⟩ := pat?_eq_some.mp hv
      exact ⟨hwidth, hfits⟩
    · exact fun ⟨hwidth, hfits⟩ => Option.isSome_iff_exists.mp (pat?_isSome hwidth hfits)
  · obtain ⟨⟨-, hword⟩, -⟩ := pat?_eq_some.mp hv
    exact ⟨_, hword⟩
  · have hsupported : PatternWidth s.cfg.W (2 ^ i.toNat) ↔ 2 ^ i.toNat ≤ s.cfg.W :=
      (patternWidth_iff s.cfg _).trans ⟨And.right, fun hle => ⟨⟨_, rfl⟩, hle⟩⟩
    simp only [exec_eq_refused, legality, pat?_eq_none, hsupported]
    constructor
    · exact fun h => if_neg fun hle => h 0 ⟨hle, Nat.two_pow_pos _⟩
    · intro h p hp
      rw [if_pos hp.1] at h
      cases h
  · exact Option.isSome_iff_exists.mp (pat?_isSome (laneWidth_supported c) hp)

/-! ### The constants (R83) -/

/-- A lane value is not cut off by the word. -/
theorem ofNat_toNat_of_lt_lane (c : Config) {x : Nat} (hx : x < 2 ^ c.N) : (BitVec.ofNat c.W x).toNat = x :=
  Nat.mod_eq_of_lt (hx.trans_le (Nat.pow_le_pow_right Nat.two_pos c.lane_le_word))

theorem exists_pat_of_lt_lane (c : Config) {x : Nat} (hx : x < 2 ^ c.N) : ∃ v, pat? (BitVec.ofNat c.W x) c.N = some v :=
  Option.isSome_iff_exists.mp (pat?_isSome (laneWidth_supported c) (by rwa [ofNat_toNat_of_lt_lane c hx]))

theorem getLsbD_ones (c : Config) {n : Nat} (hn : n < c.W) : (ones c).getLsbD n = decide (n % c.N = 0) := by
  obtain ⟨-, -, hbits⟩ := pat?_eq_some.mp (pat?_ones c)
  have hplace : n % c.N < c.W := (Nat.mod_lt n c.lane_pos).trans_le c.lane_le_word
  rw [hbits, decide_eq_true hn, Bool.true_and]
  simp [BitVec.getLsbD_one, c.word_pos]

theorem msbs_eq_shiftLeft_ones (c : Config) : msbs c = ones c <<< (c.N - 1) := by
  rw [BitVec.shiftLeft_eq_mul_twoPow, BitVec.mul_comm, ← mul_ones_of_pat (pat?_msbs c)]
  exact congrArg (· * ones c) (BitVec.eq_of_toNat_eq (by rw [BitVec.toNat_ofNat, BitVec.toNat_twoPow]))

/-- A lane full of ones in every lane is a word full of ones. -/
theorem pat?_allOnes (c : Config) : pat? (BitVec.ofNat c.W (2 ^ c.N - 1)) c.N = some (BitVec.allOnes c.W) := by
  have hlow : 2 ^ c.N - 1 < 2 ^ c.N := Nat.sub_one_lt (Nat.two_pow_pos _).ne'
  refine pat?_eq_some.mpr ⟨laneWidth_supported c, by rwa [ofNat_toNat_of_lt_lane c hlow], fun n => ?_⟩
  have hplace := Nat.mod_lt n c.lane_pos
  rw [← lowMask, getLsbD_lowMask]
  simp [hplace, hplace.trans_le c.lane_le_word]

/-- Settles O4: the bits of a pattern, and its product form, of 1, of 2^(N-1), of 2^N - 1 and of every lane value. -/
theorem constantMasks : Obligations.ConstantMasks := by
  refine fun c => ⟨fun n hn => ⟨getLsbD_ones c hn, getLsbD_msbs c hn, ?_⟩, msbs_eq_shiftLeft_ones c, ?_, fun x hx => ?_⟩
  · rw [getLsbD_lowMask, decide_eq_true hn, Bool.true_and]
  · rw [← BitVec.toNat_allOnes (v := c.W), toNat_of_pat (pat?_allOnes c),
      ofNat_toNat_of_lt_lane c (Nat.sub_one_lt (Nat.two_pow_pos _).ne'), Nat.mul_comm]
  · obtain ⟨v, hv⟩ := exists_pat_of_lt_lane c hx
    exact ⟨v, hv, by rw [toNat_of_pat hv, ofNat_toNat_of_lt_lane c hx]⟩

/-- Settles O38: the doubling loop evaluated. -/
theorem popMaskTable : Obligations.PopMaskTable := ⟨by decide, by decide, by decide, by decide, by decide, by decide⟩

/-! ### PATTERN -/

section pattern
variable {s : State} {i : SmallField}

/-- What PATTERN answers, and when (R81). -/
theorem answers_pattern_iff {v : BitVec s.cfg.W} : Answers (.pattern i) s v ↔ pat? s.a (2 ^ i.toNat) = some v := by
  rw [Answers, exec, execPattern, whenLegal_eq_next, requireSome_eq_next]
  constructor
  · rintro ⟨-, w, hw, hv⟩
    rw [hw, deliver_eq_next_setR.mp hv]
  · intro hpat
    obtain ⟨hwidth, -⟩ := pat?_eq_some.mp hpat
    exact ⟨if_pos ((patternWidth_iff s.cfg _).mp hwidth).2, v, hpat, rfl⟩

theorem pattern_fault (hP : 2 ^ i.toNat ≤ s.cfg.W) (ha : 2 ^ 2 ^ i.toNat ≤ s.a.toNat) :
    exec (.pattern i) s = .fault (.patternValueTooWide s.a.toNat (2 ^ i.toNat)) := by
  have hlegal : legality s.cfg (.pattern i) = none := if_pos hP
  have hpat : pat? s.a (2 ^ i.toNat) = none := pat?_eq_none.mpr fun h => h.2.not_ge ha
  rw [exec, execPattern, whenLegal_of_legal hlegal, hpat, requireSome_none]

end pattern

section patternBits
variable {W P : Nat} {p v : BitVec W} (h : pat? p P = some v)
include h

/-- Every field of P bits of `PAT(p, P)` is p (R80). -/
theorem laneNat_of_pat_width {m : Nat} (hm : m < W / P) : laneNat P v m = p.toNat := by
  obtain ⟨-, hfits, hbits⟩ := pat?_eq_some.mp h
  refine laneNat_eq_of_bits hfits fun b hb => ?_
  have hplace : m * P + b < W := (lane_bit_lt_mul hm hb).trans_le (Nat.div_mul_le_self W P)
  rw [hbits, decide_eq_true hplace, Bool.true_and, Nat.mul_add_mod', Nat.mod_eq_of_lt hb, BitVec.testBit_toNat]

theorem pat_width_dvd : P ∣ W := by
  obtain ⟨⟨-, hword⟩, -⟩ := pat?_eq_some.mp h
  exact ⟨_, hword⟩

/-- The closed form of `PAT(p, P)` (R80). -/
theorem toNat_of_pat_width : v.toNat = ∑ m ∈ Finset.range (W / P), p.toNat * 2 ^ (m * P) := by
  calc v.toNat
    _ = v.toNat % 2 ^ (W / P * P) := by rw [Nat.div_mul_cancel (pat_width_dvd h), Nat.mod_eq_of_lt v.isLt]
    _ = ∑ m ∈ Finset.range (W / P), laneNat P v m * 2 ^ (m * P) := toNat_mod_eq_sum_lanes P v _
    _ = ∑ m ∈ Finset.range (W / P), p.toNat * 2 ^ (m * P) :=
      Finset.sum_congr rfl fun m hm => by rw [laneNat_of_pat_width h (Finset.mem_range.mp hm)]

theorem pat_and_lowMask : v &&& lowMask W P = p := by
  obtain ⟨-, hfits, hbits⟩ := pat?_eq_some.mp h
  refine BitVec.eq_of_getLsbD_eq fun n hn => ?_
  rw [BitVec.getLsbD_and, hbits, getLsbD_lowMask]
  by_cases hP : n < P
  · simp [hn, hP, Nat.mod_eq_of_lt hP]
  · have hhigh : p.getLsbD n = false :=
      Nat.testBit_lt_two_pow (hfits.trans_le (Nat.pow_le_pow_right Nat.two_pos (Nat.le_of_not_lt hP)))
    simp [hP, hhigh]

/-- Two positions a multiple of P apart hold the same bit (R85). -/
theorem getLsbD_of_pat_mod_eq {n n' : Nat} (hn : n < W) (hn' : n' < W) (hmod : n % P = n' % P) :
    v.getLsbD n = v.getLsbD n' := by
  obtain ⟨-, -, hbits⟩ := pat?_eq_some.mp h
  rw [hbits, hbits, hmod, decide_eq_true hn, decide_eq_true hn']

theorem pat_ushiftRight (m : Nat) : v >>> (m * P) = v &&& lowMask W (W - m * P) := by
  refine BitVec.eq_of_getLsbD_eq fun n hn => ?_
  rw [BitVec.getLsbD_ushiftRight, BitVec.getLsbD_and, getLsbD_lowMask]
  by_cases hin : m * P + n < W
  · rw [getLsbD_of_pat_mod_eq h hin hn (Nat.mul_add_mod' ..)]
    simp [hn, Nat.lt_sub_of_add_lt (Nat.add_comm n _ ▸ hin)]
  · simp [BitVec.getLsbD_of_ge v _ (Nat.le_of_not_lt hin), show ¬n < W - m * P by omega]

theorem pat_rotateRight {m : Nat} (hm : m < W / P) : v.rotateRight (m * P) = v := by
  have hword := Nat.div_mul_cancel (pat_width_dvd h)
  have hP : 0 < P := by
    by_contra hzero
    simp [Nat.eq_zero_of_not_pos hzero] at hm
  have hm' : m * P < W := by simpa using (lane_bit_lt_mul hm hP).trans_eq hword
  refine BitVec.eq_of_getLsbD_eq fun n hn => ?_
  rw [BitVec.getLsbD_rotateRight, Nat.mod_eq_of_lt hm']
  by_cases hlow : n < W - m * P
  · rw [decide_eq_true hlow, cond_true, getLsbD_of_pat_mod_eq h (by omega) hn (Nat.mul_add_mod' ..)]
  · have hfields : W - m * P = (W / P - m) * P := by rw [Nat.sub_mul, hword]
    have hmod : (n - (W - m * P)) % P = n % P := by
      rw [hfields, Nat.mul_comm, Nat.sub_mul_mod]
      rw [Nat.mul_comm, ← hfields]
      exact Nat.le_of_not_lt hlow
    simp [hlow, hn, getLsbD_of_pat_mod_eq h (by omega) hn hmod]

end patternBits

/-- Settles O22: PATTERN answers `PAT`, whose fields are all the pattern. -/
theorem patternReplicates : Obligations.PatternReplicates := by
  intro i s P
  refine ⟨fun hi => encodes_formula (instr := .pattern i) (if_pos hi), rfl, fun hP ha => ?_, pattern_fault,
    fun hP => exec_eq_refused.mpr (if_neg hP.not_ge)⟩
  obtain ⟨v, hv⟩ := Option.isSome_iff_exists.mp (pat?_isSome (powerOfTwo_supported s.cfg hP) ha)
  exact ⟨v, answers_pattern_iff.mpr hv, toNat_of_pat_width hv⟩

/-- Settles O23: bit n of the answer is bit n mod P of the pattern. -/
theorem patternPeriodic : Obligations.PatternPeriodic := by
  intro i s v hanswers P
  have hpat : pat? s.a P = some v := answers_pattern_iff.mp hanswers
  exact ⟨pat_and_lowMask hpat, fun n hn => getLsbD_of_pat_mod_eq hpat hn ((Nat.le_add_right ..).trans_lt hn) (Nat.add_mod_right ..),
    fun m _ => pat_ushiftRight hpat m, fun m hm => pat_rotateRight hpat hm⟩

/-! ### The pseudo-operations (R61) -/

/-- The field of PATTERN that names the instance's lane width. -/
theorem exists_widthField (c : Config) : ∃ i : SmallField, widthField (some c.N) = .ok i ∧ 2 ^ i.toNat = c.N := by
  obtain ⟨k, hk⟩ := lane_powerOfTwo c
  have hle : 2 ^ k ≤ 2 ^ 6 := hk ▸ c.lane_le_word.trans c.word_le
  have hk6 : k ≤ 6 := (Nat.pow_le_pow_iff_right Nat.one_lt_two).mp hle
  have hfind : (List.range 64).find? (fun n => 2 ^ n == c.N) = some k := by
    rw [List.find?_range_eq_some, hk]
    refine ⟨beq_self_eq_true _, List.mem_range.mpr (by omega), fun j hj => ?_⟩
    simpa using (Nat.pow_lt_pow_right Nat.one_lt_two hj).ne
  refine ⟨BitVec.ofNat 6 k, by simp [widthField, hfind], ?_⟩
  rw [BitVec.toNat_ofNat, Nat.mod_eq_of_lt (by omega), hk]

/-- Settles O59: the field of width N names the patterns of ONES and MSBS, and the other expansions are the assembler's
own cases. -/
theorem pseudoOperationsExpand : Obligations.PseudoOperationsExpand := by
  intro s dst x written
  obtain ⟨i, hi, hN⟩ := exists_widthField s.cfg
  have hmsb : 2 ^ (s.cfg.N - 1) < 2 ^ s.cfg.W :=
    Nat.pow_lt_pow_right Nat.one_lt_two ((Nat.sub_one_lt s.cfg.lane_pos.ne').trans_le s.cfg.lane_le_word)
  refine ⟨⟨i, hN, hmsb, ?_, ?_, answers_pattern_iff.mpr ?_, answers_pattern_iff.mpr ?_⟩, ?_, ?_, rfl, rfl, rfl, rfl,
    fun v hv => ⟨perform_wrap_of_value hv, perform_wrap_of_value hv⟩⟩
  · simp [written, assemble, sourceInstr, hi, Except.map]
  · simp [written, assemble, sourceInstr, hi, Except.map]
  · rw [hN]
    exact pat?_ones s.cfg
  · rw [hN]
    exact pat?_msbs s.cfg
  · simp [written, assemble, sourceInstr, hi, Except.map]
  · simp [written, assemble, sourceInstr, hi, Except.map]

end Sys2Proof.Machine
end

section
/-! PROOFS. The lane of the lowest set bit (`41_bitisolation.md` R104 to R106): kept alone by ISOLSBITS, cleared alone by
CLRLSBITS. -/

namespace Sys2Proof.Machine

/-! ### One lane kept -/

theorem getLsbD_and_laneMask {W N : Nat} (hN : 0 < N) (v : BitVec W) (i : Nat) {n : Nat} (hn : n < W) :
    (v &&& laneMask W N i).getLsbD n = (v.getLsbD n && decide (n / N = i)) := by
  have hlane : n / N = i ↔ i * N ≤ n ∧ n < i * N + N := by
    rw [Nat.div_eq_iff hN]
    omega
  rw [BitVec.getLsbD_and, getLsbD_laneMask, decide_eq_true hn, Bool.true_and, ← Bool.decide_and,
    decide_eq_decide.mpr hlane]

/-- Keeping lane i alone leaves 0 in every other lane (R105). -/
theorem laneNat_and_laneMask (c : Config) (v : BitVec c.W) (i : Nat) {k : Nat} (hk : k < c.L) :
    laneNat c.N (v &&& laneMask c.W c.N i) k = if k = i then laneNat c.N v k else 0 := by
  have hbit {b : Nat} (hb : b < c.N) : (v &&& laneMask c.W c.N i).getLsbD (k * c.N + b) =
      ((laneNat c.N v k).testBit b && decide (k = i)) := by
    rw [getLsbD_and_laneMask c.lane_pos v i (bit_lt_word c hk hb), bit_lane k hb, getLsbD_eq_testBit_laneNat v k hb]
  split <;> rename_i hki
  · exact laneNat_eq_of_bits (laneNat_lt _ v k) fun b hb => (hbit hb).trans (by simp [hki])
  · exact laneNat_eq_of_bits (Nat.two_pow_pos _) fun b hb => (hbit hb).trans (by simp [hki])

/-! ### The two parts of a word -/

section parts
variable {W : Nat}

theorem lsbLane?_zero (N : Nat) : lsbLane? N (0 : BitVec W) = none := by
  rw [lsbLane?, ctz?_eq_none.mpr rfl, Option.map_none]

theorem isolateLowestLane_zero (N : Nat) : isolateLowestLane N (0 : BitVec W) = 0 := by
  rw [isolateLowestLane, lsbLane?_zero]

theorem clearLowestLane_zero (N : Nat) : clearLowestLane N (0 : BitVec W) = 0 := by
  rw [clearLowestLane, lsbLane?_zero]

variable {v : BitVec W} {p : Nat} (N : Nat)

theorem lsbLane?_of_ctz (h : ctz? v = some p) : lsbLane? N v = some (p / N) := by
  rw [lsbLane?, h, Option.map_some]

theorem isolateLowestLane_of_ctz (h : ctz? v = some p) : isolateLowestLane N v = v &&& laneMask W N (p / N) := by
  rw [isolateLowestLane, lsbLane?_of_ctz N h]

theorem clearLowestLane_of_ctz (h : ctz? v = some p) : clearLowestLane N v = v &&& ~~~laneMask W N (p / N) := by
  rw [clearLowestLane, lsbLane?_of_ctz N h]

variable (v)

/-- Every word is 0 or has a lowest set bit. -/
theorem eq_zero_or_ctz : v = 0 ∨ ∃ p, ctz? v = some p := by
  rw [← ctz?_eq_none, ← Option.ne_none_iff_exists']
  exact Classical.em _

/-- The lane kept and the lanes left are the word. -/
theorem isolateLowestLane_or_clearLowestLane : isolateLowestLane N v ||| clearLowestLane N v = v := by
  rcases eq_zero_or_ctz v with rfl | ⟨p, hp⟩
  · rw [isolateLowestLane_zero, clearLowestLane_zero, BitVec.or_self]
  · rw [isolateLowestLane_of_ctz N hp, clearLowestLane_of_ctz N hp]
    refine BitVec.eq_of_getLsbD_eq fun n hn => ?_
    rw [BitVec.getLsbD_or, BitVec.getLsbD_and, BitVec.getLsbD_and, BitVec.getLsbD_not, decide_eq_true hn, Bool.true_and,
      ← Bool.and_or_distrib_left, Bool.or_not_self, Bool.and_true]

/-- The lane kept is none of the lanes left. -/
theorem isolateLowestLane_and_clearLowestLane : isolateLowestLane N v &&& clearLowestLane N v = 0 := by
  rcases eq_zero_or_ctz v with rfl | ⟨p, hp⟩
  · rw [isolateLowestLane_zero, clearLowestLane_zero, BitVec.and_self]
  · rw [isolateLowestLane_of_ctz N hp, clearLowestLane_of_ctz N hp]
    refine BitVec.eq_of_getLsbD_eq fun n hn => ?_
    rw [BitVec.getLsbD_and, BitVec.getLsbD_and, BitVec.getLsbD_and, BitVec.getLsbD_not]
    cases (laneMask W N (p / N)).getLsbD n <;> simp

/-- One part of a word makes the other. -/
theorem eq_xor_of_partition {x y : BitVec W} (hor : x ||| y = v) (hand : x &&& y = 0) : y = v ^^^ x := by
  refine BitVec.eq_of_getLsbD_eq fun n hn => ?_
  have hbit : (x.getLsbD n && y.getLsbD n) = false := by 
    rw [← BitVec.getLsbD_and, hand]
    exact BitVec.getLsbD_zero
  rw [← hor, BitVec.getLsbD_xor, BitVec.getLsbD_or]
  cases hx : x.getLsbD n <;> simp_all

theorem clearLowestLane_eq_xor : clearLowestLane N v = v ^^^ isolateLowestLane N v :=
  eq_xor_of_partition v (isolateLowestLane_or_clearLowestLane v N) (isolateLowestLane_and_clearLowestLane v N)

/-- A lane as wide as the word is kept whole (R105). -/
theorem isolateLowestLane_word (hW : 0 < W) : isolateLowestLane W v = v := by
  rcases eq_zero_or_ctz v with rfl | ⟨p, hp⟩
  · exact isolateLowestLane_zero W
  · have hpW : p < W := BitVec.lt_of_getLsbD (ctz?_eq_some.mp hp).1
    rw [isolateLowestLane_of_ctz W hp]
    refine BitVec.eq_of_getLsbD_eq fun n hn => ?_
    rw [getLsbD_and_laneMask hW v _ hn, Nat.div_eq_of_lt hn, Nat.div_eq_of_lt hpW, decide_eq_true rfl, Bool.and_true]

/-- A lane of one bit is the lowest set bit (R105). -/
theorem isolateLowestLane_one : isolateLowestLane 1 v = isolateLowest v := by
  rcases eq_zero_or_ctz v with rfl | ⟨p, hp⟩
  · rw [isolateLowestLane_zero, isolateLowest_zero]
  · obtain ⟨hbit, -⟩ := ctz?_eq_some.mp hp
    rw [isolateLowestLane_of_ctz 1 hp, isolateLowest_eq_oneBit hp]
    refine BitVec.eq_of_getLsbD_eq fun n hn => ?_
    rw [getLsbD_and_laneMask Nat.one_pos v _ hn, getLsbD_oneBit, Nat.div_one, Nat.div_one]
    by_cases hnp : n = p
    · subst hnp
      simp [hn, hbit]
    · simp [hnp, Ne.symm hnp]

theorem clearLowestLane_one : clearLowestLane 1 v = clearLowest v := by
  rw [clearLowestLane_eq_xor, isolateLowestLane_one]
  exact (eq_xor_of_partition v (isolateLowest_or_clearLowest v) (isolateLowest_and_clearLowest v)).symm

end parts

/-! ### The operations -/

theorem answers_isolsbits (s : State) : Answers .isolsbits s (isolateLowestLane s.cfg.N s.a) := deliver_eq s _

theorem answers_clrlsbits (s : State) : Answers .clrlsbits s (clearLowestLane s.cfg.N s.a) := deliver_eq s _

/-- Settles O27: the two answers are the word inside and outside the mask of the lane of the lowest set bit. -/
theorem lowestLaneIsolatedAndCleared : Obligations.LowestLaneIsolatedAndCleared := by
  refine fun s => ⟨⟨rfl, rfl⟩, ⟨rfl, rfl⟩, rfl, rfl, ⟨_, _, answers_isolsbits s, answers_clrlsbits s,
    isolateLowestLane_or_clearLowestLane .., isolateLowestLane_and_clearLowestLane .., fun hN => ?_, fun hN => ?_⟩,
    fun hzero => ?_, fun hne => ?_⟩
  · rw [clearLowestLane_eq_xor, hN, isolateLowestLane_word s.a s.cfg.word_pos, BitVec.xor_self]
    exact ⟨rfl, rfl⟩
  · rw [hN, isolateLowestLane_one, clearLowestLane_one]
    exact ⟨answers_isolsb s, answers_clrlsb s⟩
  · have hisolsbits := answers_isolsbits s
    have hclrlsbits := answers_clrlsbits s
    rw [hzero, isolateLowestLane_zero] at hisolsbits
    rw [hzero, clearLowestLane_zero] at hclrlsbits
    exact ⟨hisolsbits, hclrlsbits, hzero ▸ lsbLane?_zero _⟩
  · obtain ⟨p, hctz⟩ := Option.ne_none_iff_exists'.mp (mt ctz?_eq_none.mp hne)
    obtain ⟨hp, hbelow⟩ := ctz?_eq_some.mp hctz
    obtain ⟨hlane, hnonzero, hlower⟩ := lowestLane_of_ctz hctz
    refine ⟨p, _, hp, hbelow, rfl, hlane, lsbLane?_of_ctz _ hctz, hnonzero, hlower,
      ⟨_, answers_isolsbits s, fun m hm => ?_⟩, ⟨_, answers_clrlsbits s, fun m hm => ?_⟩⟩
    · rw [isolateLowestLane_of_ctz _ hctz, laneNat_and_laneMask s.cfg s.a _ hm]
    · rw [clearLowestLane_of_ctz _ hctz, laneNat_and_not_laneMask s.cfg s.a _ hm]

end Sys2Proof.Machine
end

section
/-! PROOFS. The datapaths of GE (`44_compare.md` R172, R173). Each ends with MSBS, so it is a Boolean Lane Word, and so is
the contract's word; they are compared by their true lanes, each of which is a comparison of numbers of N bits. -/

namespace Sys2Proof.Machine

section compare
variable (c : Config) (a : BitVec c.W) {K k : Nat}

/-- A lane of GE's word is true where the lane of the operand is at least the constant (R170). -/
theorem laneTrue_geWord (K : Nat) (hk : k < c.L) : laneTrue c.N (geWord c.N a K) k = decide (K ≤ laneNat c.N a k) := by
  rw [laneTrue_eq_decide, laneNat_geWord c a K hk]
  split <;> simp [*]

theorem laneTrue_msbs (hk : k < c.L) : laneTrue c.N (msbs c) k = true := by
  simp [laneTrue_eq_decide, laneNat_msbs c hk]

/-- Without its most significant bit a lane is its value modulo 2^(N-1) (R173). -/
theorem laneNat_and_not_msbs (hk : k < c.L) :
    laneNat c.N (a &&& ~~~msbs c) k = laneNat c.N a k % 2 ^ (c.N - 1) := by
  have hpos := c.lane_pos
  refine laneNat_eq_of_bits ?_ fun b hb => ?_
  · exact (Nat.mod_le ..).trans_lt (laneNat_lt ..)
  · have hword := bit_lt_word c hk hb
    rw [BitVec.getLsbD_and, BitVec.getLsbD_not, getLsbD_msbs c hword, getLsbD_eq_testBit_laneNat a k hb,
      Nat.mul_add_mod', Nat.mod_eq_of_lt hb, Nat.testBit_mod_two_pow, decide_eq_true hword, Bool.true_and,
      Bool.and_comm, ← decide_not]
    congr 2
    exact propext (by omega)

theorem and_not_msbs_and_msbs : a &&& ~~~msbs c &&& msbs c = 0 := by
  rw [BitVec.and_assoc, BitVec.and_comm (~~~_), BitVec.and_not_self]
  exact BitVec.and_zero

/-- The product of a lane value with ONES has the value in every lane (R83). -/
theorem laneNat_mul_ones (hK : K < 2 ^ c.N) (hk : k < c.L) : laneNat c.N (BitVec.ofNat c.W K * ones c) k = K := by
  obtain ⟨v, hv⟩ := exists_pat_of_lt_lane c hK
  rw [mul_ones_of_pat hv, laneNat_of_pat hv hk, ofNat_toNat_of_lt_lane c hK]

/-! ### The borrow-free datapath (R173) -/

/-- The comparison of two numbers of `n + 1` bits by their highest bits, and by the rest where these are the same. -/
theorem le_iff_highBit_or_mod_le {n A K : Nat} (hA : A < 2 ^ (n + 1)) (hK : K < 2 ^ (n + 1)) :
    K ≤ A ↔ (2 ^ n ≤ A ∧ ¬2 ^ n ≤ K) ∨ ((2 ^ n ≤ A ↔ 2 ^ n ≤ K) ∧ K % 2 ^ n ≤ A % 2 ^ n) := by
  have hmod {x : Nat} (hx : x < 2 ^ (n + 1)) : x % 2 ^ n = if 2 ^ n ≤ x then x - 2 ^ n else x := by
    split <;> rename_i hle
    · rw [Nat.mod_eq_sub_mod hle, Nat.mod_eq_of_lt (by rw [Nat.pow_succ] at hx; omega)]
    · exact Nat.mod_eq_of_lt (Nat.lt_of_not_le hle)
  rw [hmod hA, hmod hK]
  split <;> split <;> omega

theorem laneTrue_geDatapath (hK : K < 2 ^ c.N) (hk : k < c.L) :
    laneTrue c.N (geDatapath c a K) k = decide (K ≤ laneNat c.N a k) := by
  set x := BitVec.ofNat c.W K * ones c with hx
  have hword := truthBit_lt_word c hk
  have hguard : laneTrue c.N (guardSub c (a &&& ~~~msbs c) (x &&& ~~~msbs c)) k =
      decide (K % 2 ^ (c.N - 1) ≤ laneNat c.N a k % 2 ^ (c.N - 1)) := by
    rw [laneTrue_eq_decide, laneNat_guardSub c (and_not_msbs_and_msbs c a) (and_not_msbs_and_msbs c x) hk,
      laneNat_and_not_msbs c a hk, laneNat_and_not_msbs c x hk, laneNat_mul_ones c hK hk]
    split <;> simp [*]
  have hsplit : laneTrue c.N (geDatapath c a K) k = ((laneTrue c.N a k && !laneTrue c.N x k) ||
      (!(laneTrue c.N a k ^^ laneTrue c.N x k) && laneTrue c.N (guardSub c (a &&& ~~~msbs c) (x &&& ~~~msbs c)) k)) := by
    have hmsb := laneTrue_msbs c hk
    simp only [laneTrue, geDatapath, guardSub, ← hx, BitVec.getLsbD_and, BitVec.getLsbD_or, BitVec.getLsbD_not,
      BitVec.getLsbD_xor, hword, decide_true, Bool.true_and] at hmsb ⊢
    simp only [hmsb, Bool.and_true]
  have hN : c.N - 1 + 1 = c.N := Nat.sub_one_add_one c.lane_pos.ne'
  have hcompare : K ≤ laneNat c.N a k ↔ _ := le_iff_highBit_or_mod_le (n := c.N - 1)
    (by rw [hN]; exact laneNat_lt ..) (by rwa [hN])
  rw [hsplit, hguard, laneTrue_eq_decide, laneTrue_eq_decide, laneNat_mul_ones c hK hk]
  by_cases ha : 2 ^ (c.N - 1) ≤ laneNat c.N a k <;> by_cases hKtop : 2 ^ (c.N - 1) ≤ K <;> simp [hcompare, ha, hKtop]

/-! ### The source's literal algorithm (R172) -/

theorem or_msbs_eq : a ||| msbs c = a &&& ~~~msbs c ||| msbs c := by
  refine BitVec.eq_of_getLsbD_eq fun n hn => ?_
  rw [BitVec.getLsbD_or, BitVec.getLsbD_or, BitVec.getLsbD_and, BitVec.getLsbD_not, decide_eq_true hn, Bool.true_and]
  cases (msbs c).getLsbD n <;> simp

/-- The guard bit replaces the most significant bit of a lane, whatever that was (R172). -/
theorem laneNat_or_msbs_eq_mod (hk : k < c.L) :
    laneNat c.N (a ||| msbs c) k = 2 ^ (c.N - 1) + laneNat c.N a k % 2 ^ (c.N - 1) := by
  rw [or_msbs_eq, laneNat_or_msbs c _ hk (and_not_msbs_and_msbs c a), laneNat_and_not_msbs c a hk]

/-- For a constant up to 2^(N-1) no lane borrows, and the literal algorithm compares it with the lane without its most
significant bit (R172). -/
theorem laneTrue_geLiteral (hN : 1 < c.N) (hK : K ≤ 2 ^ (c.N - 1)) (hk : k < c.L) :
    laneTrue c.N (geLiteral c a K) k = decide (K ≤ laneNat c.N a k % 2 ^ (c.N - 1)) := by
  have hKlane : K < 2 ^ c.N := hK.trans_lt (Nat.pow_lt_pow_right Nat.one_lt_two (by omega))
  have hguarded : ∀ k < c.L, laneNat c.N (BitVec.ofNat c.W K * ones c) k ≤ laneNat c.N (a ||| msbs c) k := by
    intro k hk
    rw [laneNat_mul_ones c hKlane hk, laneNat_or_msbs_eq_mod c a hk]
    exact hK.trans (Nat.le_add_right ..)
  rw [geLiteral, guardSub, laneTrue_eq_decide, laneNat_and_msbs c _ hk, laneNat_sub c hguarded hk,
    laneNat_mul_ones c hKlane hk, laneNat_or_msbs_eq_mod c a hk, decide_eq_decide]
  have hpos := Nat.two_pow_pos (c.N - 1)
  split <;> omega

end compare

/-- Settles O43: both words are Boolean Lane Words with the same true lanes. -/
theorem geDatapathMeetsContract : Obligations.GeDatapathMeetsContract := fun c a K _ hK =>
  eq_of_laneTrue (isBoolWord_and_msbs ..) (isBoolWord_geWord c a K) fun _ hk =>
    (laneTrue_geDatapath c a hK hk).trans (laneTrue_geWord c a K hk).symm

/-- Settles O44: in the range a lane is at least the constant exactly when it is so without its most significant bit; the
two examples are evaluated. -/
theorem geLiteralRange : Obligations.GeLiteralRange := by
  refine ⟨fun c a K hN hrange => ?_, by decide, by decide, by decide, by decide⟩
  have hK : K ≤ 2 ^ (c.N - 1) := by
    rcases hrange with rfl | ⟨hK, -⟩
    · exact Nat.zero_le _
    · exact hK
  refine eq_of_laneTrue (isBoolWord_and_msbs ..) (isBoolWord_geWord c a K) fun k hk => ?_
  rw [laneTrue_geLiteral c a hN hK hk, laneTrue_geWord c a K hk, decide_eq_decide]
  rcases hrange with rfl | ⟨-, hlanes⟩
  · simp
  · rcases hlanes k hk with hlow | hhigh
    · rw [Nat.mod_eq_of_lt hlow]
    · have hlane : laneNat c.N a k < 2 ^ (c.N - 1 + 1) := by
        rw [Nat.sub_one_add_one c.lane_pos.ne']
        exact laneNat_lt ..
      rw [Nat.pow_succ] at hlane
      rw [Nat.mod_eq_sub_mod (by omega), Nat.mod_eq_of_lt (by omega)]
      omega

end Sys2Proof.Machine
end
